-- ==== Sys2Proof/Word.lean ====
section
/-! DEFINITION. The word types of the block: bytes, 32-bit words, 24-bit scores (10_state.md R8 to R19). -/

namespace Sys2Proof

/-- One byte: a channel of a pixel, a byte of `OUT`, a control word (R8, R19, R34). -/
abbrev Byte := BitVec 8

/-- `HIGH`, `LOW`, `HIBASE` and the `low` fields (R13 to R18). -/
abbrev Word32 := BitVec 32

/-- Score and total registers, `SCORE_W` = 24 bits unsigned (R14 to R16, decision D5). -/
abbrev Score := BitVec 24

end Sys2Proof
end

