-- ==== Sys2Proof/Config.lean ====
section
/-! DEFINITION. What an implementation fixes (00_scope.md section 4): the sizes of the two buffers and of the control
ROM, what an unlisted byte of a buffer reads as, and the type of a modifier table. No value is free: the spec leaves
no result undefined. -/

namespace Sys2Proof.Config

/-- `TILE_BYTES` (00_scope.md section 4, R8). -/
abbrev tileBytes : Nat := 48

/-- `OUT_BYTES` (00_scope.md section 4, R19). -/
abbrev outBytes : Nat := 8

/-- `ROM_LEN` (00_scope.md section 4, R92). -/
abbrev romLen : Nat := 73

/-- What a byte of `TILE` or `OUT` that nothing has written reads as. DESIGN CHOICE (log 3), unsafe: R22 leaves it
unspecified. -/
abbrev unlistedByte : Byte := 0

/-- A modifier table `MODTAB[t][k]`: the spec takes it as a configuration argument (R60, decision D14). The default
is `Sys2Proof.Machine.modTab`. -/
abbrev ModTab := BitVec 3 → BitVec 2 → Int

end Sys2Proof.Config
end

