-- ==== Sys2Proof/Syntax.lean ====
section
/-! DEFINITION. The rows of spec/opcode_table.json: the seven micro-operations with their operands (30_encoding.md
R34 to R36) and the two formats of the output block (R39 to R43). -/

namespace Sys2Proof

/-- An orientation `f` (00_scope.md 5.3): `f0` is the source's `flipped = false` (left/right halves), `f1` is
`flipped = true` (top/bottom halves). -/
inductive Orient where
  | f0
  | f1
  deriving DecidableEq, Repr

/-- A half selector `h` (00_scope.md 5.3): `h0` the first half, `h1` the second. -/
inductive Half where
  | h0
  | h1
  deriving DecidableEq, Repr

/-- The fields of a `BLK.INDIV` block (R39, R40, R43): six 4-bit colors, the two table selectors, the flip bit and the
two 16-bit index planes, `msb` the more significant. -/
structure IndivBlock where
  r1 : BitVec 4
  r2 : BitVec 4
  g1 : BitVec 4
  g2 : BitVec 4
  b1 : BitVec 4
  b2 : BitVec 4
  table1 : BitVec 3
  table2 : BitVec 3
  flip : Orient
  msb : BitVec 16
  lsb : BitVec 16
  deriving DecidableEq, Repr

/-- The fields of a `BLK.DIFF` block (R39, R41 to R43): three 5-bit bases, three 3-bit two's-complement deltas, the two
table selectors, the flip bit and the two index planes. -/
structure DiffBlock where
  r : BitVec 5
  dr : BitVec 3
  g : BitVec 5
  dg : BitVec 3
  b : BitVec 5
  db : BitVec 3
  table1 : BitVec 3
  table2 : BitVec 3
  flip : Orient
  msb : BitVec 16
  lsb : BitVec 16
  deriving DecidableEq, Repr

/-- One constructor per row of spec/opcode_table.json. The operand types are exactly as wide as the control word's
fields (R34), so no operand is out of range. -/
inductive Instr where
  /-- `AVG f,h` (R46). -/
  | avg (f : Orient) (h : Half)
  /-- `QBASE f` (R56). -/
  | qbase (f : Orient)
  /-- `MSEARCH f,h,t` (R69). -/
  | msearch (f : Orient) (h : Half) (t : BitVec 3)
  /-- `TBEST f,h,t` (R73). -/
  | tbest (f : Orient) (h : Half) (t : BitVec 3)
  /-- `SELORI` (R75). -/
  | selori
  /-- `PACK` (R80). -/
  | pack
  /-- `SER` (R87). -/
  | ser
  /-- `BLK.INDIV` (R40): an output data format, not an operation. -/
  | blkIndiv (b : IndivBlock)
  /-- `BLK.DIFF` (R41): an output data format, not an operation. -/
  | blkDiff (b : DiffBlock)
  deriving DecidableEq, Repr

end Sys2Proof
end

