-- ==== Sys2Proof/Machine/State.lean ====
section
/-! DEFINITION. The state of one encoder instance (10_state.md R5 to R19) with the host's side of its two channels,
the reasons a step can stop, and the state after reset (R22, R113). -/

namespace Sys2Proof.Machine

/-- A byte-addressed buffer (20_memory.md R23) as (address, byte) pairs. Canonical form: addresses strictly rising and
no entry equal to `Config.unlistedByte`, which an unlisted address reads as (log 3). -/
abbrev Memory := List Host.Cell

/-- A register for each orientation, indexed `[f]`. -/
structure ByOrient (α : Type) where
  f0 : α
  f1 : α
  deriving DecidableEq, Repr

/-- A register for each half, indexed `[h]`. -/
structure ByHalf (α : Type) where
  h0 : α
  h1 : α
  deriving DecidableEq, Repr

/-- `PHASE` (R6). -/
inductive Phase where
  | idle
  | run
  | done
  deriving DecidableEq, Repr

/-- `DIFF[f]` (R12): the base-color mode, one bit. -/
inductive Mode where
  /-- The bit 0. -/
  | individual
  /-- The bit 1. -/
  | differential
  deriving DecidableEq, Repr

/-- Three independent 8-bit channels, in the order R, G, B (R10, R24). -/
structure Color where
  r : Byte
  g : Byte
  b : Byte
  deriving DecidableEq, Repr

/-- `CAND` (R14): the candidate under evaluation. -/
structure Cand where
  score : Score
  low : Word32
  deriving DecidableEq, Repr

/-- `BEST[f][h]` (R15): the best candidate so far of a half. -/
structure Best where
  table : BitVec 3
  score : Score
  low : Word32
  deriving DecidableEq, Repr

/-- The 48 bytes of an offered tile (R97, R101). -/
abbrev Tile := Vector Byte Config.tileBytes

/-- What the host offers on the input channel: exactly 48 bytes and 16 bits (R97, R101). -/
structure Offer where
  tile : Tile
  mask : BitVec 16
  deriving DecidableEq, Repr

/-- What the host drives on the block's inputs during one step (decision D2): the reset input, the input channel
(`in_valid` is 1 when there is an offer) and `out_ready`. -/
structure Drive where
  reset : Bool
  offer : Option Offer
  outReady : Bool
  deriving DecidableEq, Repr

/-- The host, the second agent (R90, R99), held in the state: what it will drive, one entry a step, and the blocks it
has received (R98), oldest first. DESIGN CHOICE (log 5), safe: a statement about every state covers every host. -/
structure HostSide where
  script : List Drive
  received : List (List Byte)
  deriving DecidableEq, Repr

/-- The registers of R5, one field each, and the host's side. -/
structure State where
  /-- `PHASE` (R6). -/
  phase : Phase
  /-- `SEQ`, the step register (R7). -/
  seq : BitVec 7
  /-- `TILE`, 48 bytes (R8, R24). -/
  tile : Memory
  /-- `MASK` (R9, R25). -/
  mask : BitVec 16
  /-- `AVG[f][h]` (R10). -/
  avg : ByOrient (ByHalf Color)
  /-- `BASE[f][h]` (R11). -/
  base : ByOrient (ByHalf Color)
  /-- `DIFF[f]` (R12). -/
  diff : ByOrient Mode
  /-- `HIBASE[f]` (R13). -/
  hibase : ByOrient Word32
  /-- `CAND` (R14). -/
  cand : Cand
  /-- `BEST[f][h]` (R15). -/
  best : ByOrient (ByHalf Best)
  /-- `TOTAL[f]` (R16). -/
  total : ByOrient Score
  /-- `SEL` (R17). -/
  sel : Orient
  /-- `HIGH` (R18). -/
  high : Word32
  /-- `LOW` (R18). -/
  low : Word32
  /-- `OUT`, 8 bytes (R19, R26). -/
  out : Memory
  /-- The host's side: the model's own field (log 5). -/
  host : HostSide
  deriving DecidableEq, Repr

/-- Why a step stops with a fault. There is no reason: "No micro-operation and no host event raises an exception. The
list of cause codes is empty" (60_exceptions.md R100). The one fault a model of R105 may have, a read of a register
that holds no value, cannot arise here: every register holds a value at reset (log 2). -/
inductive Fault where
  deriving DecidableEq, Repr

/-- Why an instruction or a step is refused. Each is safe: the model stops. -/
inductive Refusal where
  /-- Raised by an arm of `exec` whose instruction has no meaning yet. Safe. No arm raises it now. -/
  | notModelled (mnemonic : String)
  /-- Raised by a step whose control word is reserved (R37, R91, R105). Safe. The ROM of R92 holds none. -/
  | reservedControlWord (w : Byte)
  /-- Raised by a step whose `SEQ` is past the last word of the ROM; R7 gives `SEQ` the values 0 to 72 only. Safe. -/
  | noControlWord (seq : BitVec 7)
  /-- Raised by `exec` on an output block format: R40 and R41 describe data, and R36 lists no such operation. Safe. -/
  | outputFormat (mnemonic : String)
  deriving DecidableEq, Repr

/-- A color of three zero channels. -/
def Color.zero : Color := ⟨0, 0, 0⟩

/-- The machine right after `RESET`. R22 gives `PHASE = Idle` and `SEQ = 0`; it leaves every other register
unspecified, and each holds here the value that log 1 names (DESIGN CHOICE, unsafe). The host drives nothing and has
received nothing (log 5). -/
def State.reset : State where
  phase := .idle
  seq := 0
  tile := []
  mask := 0
  avg := ⟨⟨.zero, .zero⟩, ⟨.zero, .zero⟩⟩
  base := ⟨⟨.zero, .zero⟩, ⟨.zero, .zero⟩⟩
  diff := ⟨.individual, .individual⟩
  hibase := ⟨0, 0⟩
  cand := ⟨0, 0⟩
  best := ⟨⟨⟨0, 0, 0⟩, ⟨0, 0, 0⟩⟩, ⟨⟨0, 0, 0⟩, ⟨0, 0, 0⟩⟩⟩
  total := ⟨0, 0⟩
  sel := .f0
  high := 0
  low := 0
  out := []
  host := ⟨[], []⟩

end Sys2Proof.Machine
end

