-- ==== Sys2Proof/Machine/Ops.lean ====
section
/-! DEFINITION. The named operations over the two buffers and the registers. Every micro-operation and every host event
reads and writes the state through these. There is no exception to take and none to return from (60_exceptions.md
R100, R104), so no operation for either stands here. -/

namespace Sys2Proof.Machine

/-- One byte of a buffer: the first entry for the address, else what an unlisted address reads as. -/
def Memory.read : Memory → Nat → Byte
  | [], _ => Config.unlistedByte
  | (b, v) :: m, a => if b = a then v else Memory.read m a

/-- A buffer without its entries for one address. -/
def Memory.erase (m : Memory) (a : Nat) : Memory :=
  m.filter fun c => c.1 != a

/-- An entry put before the first greater address. -/
def Memory.insert (a : Nat) (v : Byte) : Memory → Memory
  | [] => [(a, v)]
  | (b, w) :: m => if a < b then (a, v) :: (b, w) :: m else (b, w) :: Memory.insert a v m

/-- Write one byte, keeping the canonical form: writing what an unlisted address reads as removes the entry. -/
def Memory.write (m : Memory) (a : Nat) (v : Byte) : Memory :=
  if v = Config.unlistedByte then Memory.erase m a else Memory.insert a v (Memory.erase m a)

/-- `MemRead(addr, n)` (00_scope.md 5.4): the `n` bytes from `a` on, in address order. -/
def Memory.readBytes (m : Memory) (a : Nat) : Nat → List Byte
  | 0 => []
  | n + 1 => Memory.read m a :: Memory.readBytes m (a + 1) n

/-- `MemWrite(addr, n, v)` (00_scope.md 5.4): the bytes of a list from `a` on. -/
def Memory.writeBytes (m : Memory) (a : Nat) : List Byte → Memory
  | [] => m
  | v :: vs => Memory.writeBytes (Memory.write m a v) (a + 1) vs

/-- The canonical form from an address `lo` on, below `hi`: addresses strictly rising, no entry equal to the unlisted
byte. -/
def Memory.wfFrom (lo hi : Nat) : Memory → Bool
  | [] => true
  | (a, v) :: m => decide (lo ≤ a) && decide (a < hi) && decide (v ≠ Config.unlistedByte) && Memory.wfFrom (a + 1) hi m

/-- The canonical form of a buffer of `size` bytes. -/
def Memory.wf (size : Nat) (m : Memory) : Bool :=
  Memory.wfFrom 0 size m

/-- Read a register indexed by the orientation. -/
def ByOrient.get {α : Type} (p : ByOrient α) : Orient → α
  | .f0 => p.f0
  | .f1 => p.f1

/-- Write a register indexed by the orientation. -/
def ByOrient.set {α : Type} (p : ByOrient α) (f : Orient) (v : α) : ByOrient α :=
  match f with
  | .f0 => { p with f0 := v }
  | .f1 => { p with f1 := v }

/-- Read a register indexed by the half. -/
def ByHalf.get {α : Type} (p : ByHalf α) : Half → α
  | .h0 => p.h0
  | .h1 => p.h1

/-- Write a register indexed by the half. -/
def ByHalf.set {α : Type} (p : ByHalf α) (h : Half) (v : α) : ByHalf α :=
  match h with
  | .h0 => { p with h0 := v }
  | .h1 => { p with h1 := v }

/-- The bit of `DIFF[f]`: 1 = differential, 0 = individual (R12). -/
def modeBit : Mode → BitVec 1
  | .individual => 0
  | .differential => 1

/-- The two bits of `PHASE` (R6); `0b11` never occurs. -/
def phaseBits : Phase → BitVec 2
  | .idle => 0
  | .run => 1
  | .done => 2

/-- The average of half `h` of orientation `f`, `AVG[f][h]`. -/
def getAvg (s : State) (f : Orient) (h : Half) : Color := (s.avg.get f).get h

/-- The base color of half `h` of orientation `f`, `BASE[f][h]`. -/
def getBase (s : State) (f : Orient) (h : Half) : Color := (s.base.get f).get h

/-- The best candidate of half `h` of orientation `f`, `BEST[f][h]`. -/
def getBest (s : State) (f : Orient) (h : Half) : Best := (s.best.get f).get h

/-- `PHASE <- p`. -/
def setPhase (s : State) (p : Phase) : State := { s with phase := p }

/-- `SEQ <- n`. -/
def setSeq (s : State) (n : BitVec 7) : State := { s with seq := n }

/-- `TILE[0..47] <- bytes` (R97): all the bytes of the tile at once. -/
def setTile (s : State) (t : Tile) : State := { s with tile := Memory.writeBytes s.tile 0 t.toList }

/-- `MASK <- m`. -/
def setMask (s : State) (m : BitVec 16) : State := { s with mask := m }

/-- `AVG[f][h] <- c`, three channels. -/
def setAvg (s : State) (f : Orient) (h : Half) (c : Color) : State :=
  { s with avg := s.avg.set f ((s.avg.get f).set h c) }

/-- `BASE[f][0] <- c0` and `BASE[f][1] <- c1`, written together (R11). -/
def setBase (s : State) (f : Orient) (c0 c1 : Color) : State :=
  { s with base := s.base.set f ⟨c0, c1⟩ }

/-- `DIFF[f] <- m`. -/
def setDiff (s : State) (f : Orient) (m : Mode) : State := { s with diff := s.diff.set f m }

/-- `HIBASE[f] <- w`. -/
def setHibase (s : State) (f : Orient) (w : Word32) : State := { s with hibase := s.hibase.set f w }

/-- `CAND <- c`. -/
def setCand (s : State) (c : Cand) : State := { s with cand := c }

/-- `BEST[f][h] <- b`, all three fields. -/
def setBest (s : State) (f : Orient) (h : Half) (b : Best) : State :=
  { s with best := s.best.set f ((s.best.get f).set h b) }

/-- `TOTAL[f] <- n`. -/
def setTotal (s : State) (f : Orient) (n : Score) : State := { s with total := s.total.set f n }

/-- `SEL <- f`. -/
def setSel (s : State) (f : Orient) : State := { s with sel := f }

/-- `HIGH <- w`. -/
def setHigh (s : State) (w : Word32) : State := { s with high := w }

/-- `LOW <- w`. -/
def setLow (s : State) (w : Word32) : State := { s with low := w }

/-- `MemWrite(a, n, bytes)` on `OUT` (00_scope.md 5.4, R87). -/
def writeOut (s : State) (a : Nat) (bs : List Byte) : State :=
  { s with out := Memory.writeBytes s.out a bs }

/-- The host's side of the channels, written. -/
def setHost (s : State) (x : HostSide) : State := { s with host := x }

end Sys2Proof.Machine
end

