-- ==== Sys2Proof/Machine/Operands.lean ====
section
/-! DEFINITION. The operand forms: pixels and their numbers (00_scope.md 5.3, 20_memory.md R24, R25), the geometry of
the halves (R45), reads of the tile and of the registers by `f` and `h`. -/

namespace Sys2Proof.Machine

/-- A pixel by column `x` and row `y` (00_scope.md 5.3). -/
structure Pixel where
  x : Fin 4
  y : Fin 4
  deriving DecidableEq, Repr

/-- The pixel number `i = x + 4·y` (R24). -/
def pixelNumber (p : Pixel) : Nat := p.x.val + 4 * p.y.val

/-- The bit position `POS(x, y) = y + 4·x` of a pixel in each index plane (R43). -/
def pixelPos (p : Pixel) : Nat := p.y.val + 4 * p.x.val

/-- `VALID(x, y) = MASK[x + 4·y]` (R25). -/
def valid (mask : BitVec 16) (p : Pixel) : Bool := mask.getLsbD (pixelNumber p)

/-- The columns of a half (R45). -/
def columns : Orient → Half → List (Fin 4)
  | .f0, .h0 => [0, 1]
  | .f0, .h1 => [2, 3]
  | .f1, _ => [0, 1, 2, 3]

/-- The rows of a half (R45). -/
def rows : Orient → Half → List (Fin 4)
  | .f0, _ => [0, 1, 2, 3]
  | .f1, .h0 => [0, 1]
  | .f1, .h1 => [2, 3]

/-- `HALF(f, h)` (R45): the 8 pixels of a half. The order is of no consequence (R49, R71). -/
def half (f : Orient) (h : Half) : List Pixel :=
  (rows f h).flatMap fun y => (columns f h).map fun x => ⟨x, y⟩

/-- The valid pixels of a half (R46, R69): the pixels whose bytes are read. -/
def validPixels (mask : BitVec 16) (f : Orient) (h : Half) : List Pixel :=
  (half f h).filter (valid mask)

/-- `PIX(x, y) = MemRead(3·(x + 4·y), 3) = (R, G, B)` (R24). -/
def readPixel (tile : Memory) (p : Pixel) : Color where
  r := Memory.read tile (3 * pixelNumber p)
  g := Memory.read tile (3 * pixelNumber p + 1)
  b := Memory.read tile (3 * pixelNumber p + 2)

/-- The pixel of a tile given as 48 bytes, in the same layout (R24, R95). -/
def tilePixel (tile : Tile) (p : Pixel) : Color where
  r := tile.toList.getD (3 * pixelNumber p) 0
  g := tile.toList.getD (3 * pixelNumber p + 1) 0
  b := tile.toList.getD (3 * pixelNumber p + 2) 0

/-- The eight bytes of `OUT` (R98): `MemRead(0, 8)` of the output buffer. -/
def outBytes (s : State) : List Byte := Memory.readBytes s.out 0 Config.outBytes

/-- The tile carried by the input bus: `in_tile[8a+7 : 8a] = TILE[a]` (20_memory.md after R27, decision D19). -/
def tileOfBus (bus : BitVec 384) : Tile :=
  ⟨((List.range Config.tileBytes).map fun a => bus.extractLsb' (8 * a) 8).toArray, by simp⟩

end Sys2Proof.Machine
end

