-- ==== Sys2Proof/Machine/Flags.lean ====
section
/-! DEFINITION. The block has no condition code and no flag an operation sets as a side effect (10_state.md R20). Its
whole status is the two outputs below, pure functions of `PHASE`, and the output bus they qualify. -/

namespace Sys2Proof.Machine

/-- `in_ready = (PHASE = Idle)` (R20). -/
def inReady (s : State) : Bool := decide (s.phase = .idle)

/-- `out_valid = (PHASE = Done)` (R20). -/
def outValid (s : State) : Bool := decide (s.phase = .done)

/-- `out_data = HIGH ∥ LOW` (R98, decision D19), which means something only while `out_valid = 1` (R116). -/
def outData (s : State) : Option (BitVec 64) :=
  if outValid s then some (s.high ++ s.low) else none

end Sys2Proof.Machine
end

