-- ==== Sys2Proof/Machine/Averager.lean ====
section
/-! DEFINITION. Unit 1, the subblock averager: `AVG f,h` (40_subblock_averager.md R45 to R49). The functions take the
pixels of a tile as a function, so that the machine and `ENCODE` (R95) share them. -/

namespace Sys2Proof.Machine

/-- The sum of one channel over the valid pixels of a half (R46). An exact number: by R47 it is at most 2040 and the
11-bit accumulator of the hardware never overflows. -/
def channelSum (px : Pixel → Color) (mask : BitVec 16) (f : Orient) (h : Half) (chan : Color → Byte) : Nat :=
  ((validPixels mask f h).map fun p => (chan (px p)).toNat).sum

/-- `(sum + 4) >> 3` (R46): the divisor is 8 whatever the number of valid pixels. -/
def roundEighth (sum : Nat) : Byte := BitVec.ofNat 8 ((sum + 4) >>> 3)

/-- The average of a half, its three channels computed independently (R46, R48). -/
def averageHalf (px : Pixel → Color) (mask : BitVec 16) (f : Orient) (h : Half) : Color where
  r := roundEighth (channelSum px mask f h Color.r)
  g := roundEighth (channelSum px mask f h Color.g)
  b := roundEighth (channelSum px mask f h Color.b)

/-- `AVG f,h` (R46): reads `TILE` and `MASK`, writes `AVG[f][h]`. -/
def execAvg (f : Orient) (h : Half) (s : State) : Host.Outcome State Fault Refusal :=
  .next (setAvg s f h (averageHalf (readPixel s.tile) s.mask f h))

end Sys2Proof.Machine
end

