-- ==== Sys2Proof/Machine/OutputFormat.lean ====
section
/-! DEFINITION. The two output block formats as instructions. opcode_table.json calls each an "Output data format, not
an operation"; R36 is "the complete list of micro-operations" and holds neither, and no control word selects one
(30_encoding.md R36, R37). The spec gives them no effect on the machine, so each is refused by name (log 8). What they
encode is in Decode.lean. -/

namespace Sys2Proof.Machine

/-- `BLK.INDIV` (R40) is data the encoder emits; the sequencer has no such operation (R36). -/
def execBlkIndiv (_b : IndivBlock) (_s : State) : Host.Outcome State Fault Refusal :=
  .refused (.outputFormat "BLK.INDIV")

/-- `BLK.DIFF` (R41) is data the encoder emits; the sequencer has no such operation (R36). -/
def execBlkDiff (_b : DiffBlock) (_s : State) : Host.Outcome State Fault Refusal :=
  .refused (.outputFormat "BLK.DIFF")

end Sys2Proof.Machine
end

