-- ==== Sys2Proof/WellFormed.lean ====
section
/-! DEFINITION. Which instructions may stand in the control ROM (30_encoding.md R36, R37). The one check is that the
instruction is a micro-operation; operand ranges are carried by the operand types. -/

namespace Sys2Proof

/-- The instruction is one of the seven micro-operations of R36, "the complete list of micro-operations". The two
output block formats are not. -/
def Instr.isMicroOp : Instr → Bool
  | .avg _ _ => true
  | .qbase _ => true
  | .msearch _ _ _ => true
  | .tbest _ _ _ => true
  | .selori => true
  | .pack => true
  | .ser => true
  | .blkIndiv _ => false
  | .blkDiff _ => false

/-- A well-formed instruction of the sequencer: a control word selects it (R34, R36). -/
abbrev Instr.WellFormed (i : Instr) : Prop := i.isMicroOp = true

end Sys2Proof
end

