-- ==== Sys2Proof/Decode.lean ====
section
/-! DEFINITION. The decoder, total on any bytes and rejecting by name, then the encoder, both from 30_encoding.md:
control words (R34 to R37) and the 64-bit output block (R39 to R43, stored in the order of 20_memory.md R26). -/

namespace Sys2Proof

/-- What the decoder makes of some bytes. -/
inductive Decoded where
  /-- The bytes are this instruction. -/
  | instr (i : Instr)
  /-- A control word that matches no row of R36 (R37). -/
  | reserved (w : Byte)
  /-- Neither one control word (1 byte) nor one output block (8 bytes). -/
  | badLength (n : Nat)
  deriving DecidableEq, Repr

/-- The value of a one-bit orientation field: 0 = not flipped, 1 = flipped (R34, R39). -/
def orientOfBit (b : Bool) : Orient :=
  if b then .f1 else .f0

/-- The value of the one-bit half field: 0 = first, 1 = second (R34). -/
def halfOfBit (b : Bool) : Half :=
  if b then .h1 else .h0

/-- The bit of an orientation (R34, R39). -/
def orientBit : Orient → BitVec 1
  | .f0 => 0
  | .f1 => 1

/-- The bit of a half selector (R34). -/
def halfBit : Half → BitVec 1
  | .h0 => 0
  | .h1 => 1

/-- `op = cw[7:5]` (R34). -/
def opField (cw : Byte) : BitVec 3 := cw.extractLsb' 5 3

/-- `f = cw[4]` (R35). -/
def fField (cw : Byte) : Orient := orientOfBit (cw.getLsbD 4)

/-- `h = cw[3]` (R35). -/
def hField (cw : Byte) : Half := halfOfBit (cw.getLsbD 3)

/-- `t = cw[2:0]` (R35). -/
def tField (cw : Byte) : BitVec 3 := cw.extractLsb' 0 3

/-- One control word (R36). The fields an operation does not use must be zero, else the word is reserved (R37). -/
def decodeControl (cw : Byte) : Decoded :=
  match (opField cw).toNat with
  | 1 => if tField cw = 0 then .instr (.avg (fField cw) (hField cw)) else .reserved cw
  | 2 => if hField cw = .h0 ∧ tField cw = 0 then .instr (.qbase (fField cw)) else .reserved cw
  | 3 => .instr (.msearch (fField cw) (hField cw) (tField cw))
  | 4 => .instr (.tbest (fField cw) (hField cw) (tField cw))
  | 5 => if cw.extractLsb' 0 5 = 0 then .instr .selori else .reserved cw
  | 6 => if cw.extractLsb' 0 5 = 0 then .instr .pack else .reserved cw
  | 7 => if cw.extractLsb' 0 5 = 0 then .instr .ser else .reserved cw
  | _ => .reserved cw

/-- `BLK.INDIV` read from the block `BLK = HIGH ∥ LOW` (R39, R40, R43). -/
def indivOfBits (w : BitVec 64) : IndivBlock where
  r1 := w.extractLsb' 60 4
  r2 := w.extractLsb' 56 4
  g1 := w.extractLsb' 52 4
  g2 := w.extractLsb' 48 4
  b1 := w.extractLsb' 44 4
  b2 := w.extractLsb' 40 4
  table1 := w.extractLsb' 37 3
  table2 := w.extractLsb' 34 3
  flip := orientOfBit (w.getLsbD 32)
  msb := w.extractLsb' 16 16
  lsb := w.extractLsb' 0 16

/-- `BLK.DIFF` read from the block (R39, R41, R43). -/
def diffOfBits (w : BitVec 64) : DiffBlock where
  r := w.extractLsb' 59 5
  dr := w.extractLsb' 56 3
  g := w.extractLsb' 51 5
  dg := w.extractLsb' 48 3
  b := w.extractLsb' 43 5
  db := w.extractLsb' 40 3
  table1 := w.extractLsb' 37 3
  table2 := w.extractLsb' 34 3
  flip := orientOfBit (w.getLsbD 32)
  msb := w.extractLsb' 16 16
  lsb := w.extractLsb' 0 16

/-- One output block: bit 33 (`diff`) selects the format (R39). Every pattern is a block (R44). -/
def decodeBlock (w : BitVec 64) : Instr :=
  if w.getLsbD 33 then .blkDiff (diffOfBits w) else .blkIndiv (indivOfBits w)

/-- A field placed at a bit position of a 64-bit block: `v << pos`. -/
def placeBits {w : Nat} (v : BitVec w) (pos : Nat) : BitVec 64 := v.setWidth 64 <<< pos

/-- Eight bytes read as one 64-bit big-endian number (R26, R88). -/
def blockOfBytes (b0 b1 b2 b3 b4 b5 b6 b7 : Byte) : BitVec 64 :=
  placeBits b0 56 ||| placeBits b1 48 ||| placeBits b2 40 ||| placeBits b3 32
  ||| placeBits b4 24 ||| placeBits b5 16 ||| placeBits b6 8 ||| placeBits b7 0

/-- The decoder: one byte is a control word (R34), eight bytes in the order of `OUT` are an output block (R26). -/
def decode : List Byte → Decoded
  | [cw] => decodeControl cw
  | [b0, b1, b2, b3, b4, b5, b6, b7] => .instr (decodeBlock (blockOfBytes b0 b1 b2 b3 b4 b5 b6 b7))
  | bs => .badLength bs.length

/-- The four bytes of a 32-bit word, most significant first (R26, R87). -/
def wordBytes (w : Word32) : List Byte :=
  [w.extractLsb' 24 8, w.extractLsb' 16 8, w.extractLsb' 8 8, w.extractLsb' 0 8]

/-- The eight bytes of a block in the order of `OUT`: `OUT[j] = BLK[63−8j : 56−8j]` (R26). -/
def blockBytes (w : BitVec 64) : List Byte :=
  [w.extractLsb' 56 8, w.extractLsb' 48 8, w.extractLsb' 40 8, w.extractLsb' 32 8,
   w.extractLsb' 24 8, w.extractLsb' 16 8, w.extractLsb' 8 8, w.extractLsb' 0 8]

/-- A control word from its four fields (R34). -/
def controlWord (op : BitVec 3) (f h : BitVec 1) (t : BitVec 3) : Byte :=
  op ++ f ++ h ++ t

/-- The bits of a `BLK.INDIV` block (R39, R40, R43): bit 33 is 0. -/
def indivBits (b : IndivBlock) : BitVec 64 :=
  placeBits b.r1 60 ||| placeBits b.r2 56 ||| placeBits b.g1 52 ||| placeBits b.g2 48
  ||| placeBits b.b1 44 ||| placeBits b.b2 40 ||| placeBits b.table1 37 ||| placeBits b.table2 34
  ||| placeBits (orientBit b.flip) 32 ||| placeBits b.msb 16 ||| placeBits b.lsb 0

/-- The bits of a `BLK.DIFF` block (R39, R41, R43): bit 33 is 1. -/
def diffBits (b : DiffBlock) : BitVec 64 :=
  placeBits b.r 59 ||| placeBits b.dr 56 ||| placeBits b.g 51 ||| placeBits b.dg 48
  ||| placeBits b.b 43 ||| placeBits b.db 40 ||| placeBits b.table1 37 ||| placeBits b.table2 34
  ||| placeBits 1#1 33 ||| placeBits (orientBit b.flip) 32 ||| placeBits b.msb 16 ||| placeBits b.lsb 0

/-- The encoder: the bytes of an instruction (R36), of an output block (R40, R41). -/
def encode : Instr → List Byte
  | .avg f h => [controlWord 1 (orientBit f) (halfBit h) 0]
  | .qbase f => [controlWord 2 (orientBit f) 0 0]
  | .msearch f h t => [controlWord 3 (orientBit f) (halfBit h) t]
  | .tbest f h t => [controlWord 4 (orientBit f) (halfBit h) t]
  | .selori => [controlWord 5 0 0 0]
  | .pack => [controlWord 6 0 0 0]
  | .ser => [controlWord 7 0 0 0]
  | .blkIndiv b => blockBytes (indivBits b)
  | .blkDiff b => blockBytes (diffBits b)

/-- The instruction the decoder reads from a table row's bits: an 8-bit control word, or a 64-bit output block whose
bit 63 is bit 7 of `OUT[0]` (opcode_table.json). The table has no row of another width. -/
def decodeTableWord (nbits w : Nat) : Option Instr :=
  match nbits with
  | 8 =>
    match decode [BitVec.ofNat 8 w] with
    | .instr i => some i
    | _ => none
  | 64 =>
    match decode (blockBytes (BitVec.ofNat 64 w)) with
    | .instr i => some i
    | _ => none
  | _ => none

end Sys2Proof
end

