-- ==== Sys2Proof/Machine/Packer.lean ====
section
/-! DEFINITION. Unit 5, the ETC1 bitfield packer: `PACK` (44_bitfield_packer.md R80 to R84). -/

namespace Sys2Proof.Machine

/-- `HIGH` of a winner (R80): the base-color word, the two table selectors and the flip bit, in disjoint bits (R81). -/
def packHigh (hibase : Word32) (table1 table2 : BitVec 3) (f : Orient) : Word32 :=
  hibase ||| (table1.setWidth 32 <<< 5) ||| (table2.setWidth 32 <<< 2) ||| (orientBit f).setWidth 32

/-- `PACK` (R80): reads `SEL` and the winner's registers, writes `HIGH` and `LOW`. -/
def execPack (s : State) : Host.Outcome State Fault Refusal :=
  let f := s.sel
  .next (setLow
    (setHigh s (packHigh (s.hibase.get f) (getBest s f .h0).table (getBest s f .h1).table f))
    ((getBest s f .h0).low ||| (getBest s f .h1).low))

end Sys2Proof.Machine
end

