-- ==== Sys2Proof/Machine/Quantizer.lean ====
section
/-! DEFINITION. Unit 2, the base-color quantizer and mode selector: `QBASE f` (41_base_color_quantizer.md R50 to R59). -/

namespace Sys2Proof.Machine

/-- `Q5(c) = round(c·31/255)`, as `(2·c·31 + 255) div 510` (R50, R51). -/
def q5 (c : Byte) : BitVec 5 := BitVec.ofNat 5 ((2 * c.toNat * 31 + 255) / 510)

/-- `Q4(c) = round(c·15/255)` (R51, R52). -/
def q4 (c : Byte) : BitVec 4 := BitVec.ofNat 4 ((2 * c.toNat * 15 + 255) / 510)

/-- `E5(q) = 8·q + (q div 4)` (R53; conflict C4). -/
def e5 (q : BitVec 5) : Byte := BitVec.ofNat 8 (8 * q.toNat + q.toNat / 4)

/-- `E4(q) = 17·q` (R54). -/
def e4 (q : BitVec 4) : Byte := BitVec.ofNat 8 (17 * q.toNat)

/-- The 5-bit delta of one channel, `d = Q5(second) − Q5(first)`, signed (R55). -/
def delta (first second : Byte) : Int := (q5 second).toNat - (q5 first).toNat

/-- `INRANGE(d)`: `−4 ≤ d ≤ 3` (R55). -/
def inRange (d : Int) : Bool := decide (-4 ≤ d) && decide (d ≤ 3)

/-- `twos_3(d) = d mod 8` (R42). -/
def twos3 (d : Int) : BitVec 3 := BitVec.ofInt 3 d

/-- `(p + d) & 0x1f` (R42, R56): the second half's 5-bit channel. -/
def second5 (p : BitVec 5) (d : Int) : BitVec 5 := BitVec.ofInt 5 (p.toNat + d)

/-- A field placed at a bit position of a 32-bit word: `v << pos`. -/
def placeField {w : Nat} (v : BitVec w) (pos : Nat) : Word32 := v.setWidth 32 <<< pos

/-- The mode of an orientation: differential when all three channels are in range (R55, R57). -/
def chooseMode (a1 a2 : Color) : Mode :=
  if inRange (delta a1.r a2.r) && inRange (delta a1.g a2.g) && inRange (delta a1.b a2.b) then .differential
  else .individual

/-- The first base color of the differential branch (R56). -/
def diffFirst (a1 : Color) : Color := ⟨e5 (q5 a1.r), e5 (q5 a1.g), e5 (q5 a1.b)⟩

/-- The second base color of the differential branch, `E5((p1 + d) & 0x1f)` (R56). -/
def diffSecond (a1 a2 : Color) : Color where
  r := e5 (second5 (q5 a1.r) (delta a1.r a2.r))
  g := e5 (second5 (q5 a1.g) (delta a1.g a2.g))
  b := e5 (second5 (q5 a1.b) (delta a1.b a2.b))

/-- `HIBASE` in the differential branch (R41, R56). -/
def diffHibase (a1 a2 : Color) : Word32 :=
  placeField (q5 a1.r) 27 ||| placeField (twos3 (delta a1.r a2.r)) 24
  ||| placeField (q5 a1.g) 19 ||| placeField (twos3 (delta a1.g a2.g)) 16
  ||| placeField (q5 a1.b) 11 ||| placeField (twos3 (delta a1.b a2.b)) 8
  ||| placeField 1#1 1

/-- A base color of the individual branch (R56). -/
def indivColor (a : Color) : Color := ⟨e4 (q4 a.r), e4 (q4 a.g), e4 (q4 a.b)⟩

/-- `HIBASE` in the individual branch (R40, R56). -/
def indivHibase (a1 a2 : Color) : Word32 :=
  placeField (q4 a1.r) 28 ||| placeField (q4 a2.r) 24
  ||| placeField (q4 a1.g) 20 ||| placeField (q4 a2.g) 16
  ||| placeField (q4 a1.b) 12 ||| placeField (q4 a2.b) 8

/-- The first base color, from the branch that was chosen (R56, R59). -/
def baseFirst (a1 a2 : Color) : Color :=
  match chooseMode a1 a2 with
  | .differential => diffFirst a1
  | .individual => indivColor a1

/-- The second base color, from the branch that was chosen (R56, R59). -/
def baseSecond (a1 a2 : Color) : Color :=
  match chooseMode a1 a2 with
  | .differential => diffSecond a1 a2
  | .individual => indivColor a2

/-- `HIBASE`, from the branch that was chosen (R56). -/
def hibaseOf (a1 a2 : Color) : Word32 :=
  match chooseMode a1 a2 with
  | .differential => diffHibase a1 a2
  | .individual => indivHibase a1 a2

/-- `QBASE f` (R56): reads `AVG[f][0]`, `AVG[f][1]`, writes `DIFF[f]`, `BASE[f][0]`, `BASE[f][1]`, `HIBASE[f]`. -/
def execQbase (f : Orient) (s : State) : Host.Outcome State Fault Refusal :=
  let a1 := getAvg s f .h0
  let a2 := getAvg s f .h1
  .next (setHibase (setBase (setDiff s f (chooseMode a1 a2)) f (baseFirst a1 a2) (baseSecond a1 a2)) f (hibaseOf a1 a2))

end Sys2Proof.Machine
end

