-- ==== Sys2Proof/Machine/Tables.lean ====
section
/-! DEFINITION. The two read-only tables (20_memory.md R23): the default modifier table (R60) and the control ROM
(R92). -/

namespace Sys2Proof.Machine

/-- A row of `MODTAB`, ordered [small+, large+, small−, large−] (R61). -/
def modRow (small large : Int) (k : BitVec 2) : Int :=
  match k.toNat with
  | 0 => small
  | 1 => large
  | 2 => -small
  | _ => -large

/-- `MODTAB`, the default of R60. Rows 1 to 6 are the spec's recollection of ETC1, not the source's (log 4). -/
def modTab : Config.ModTab := fun t k =>
  match t.toNat with
  | 0 => modRow 2 8 k
  | 1 => modRow 5 17 k
  | 2 => modRow 9 29 k
  | 3 => modRow 13 42 k
  | 4 => modRow 18 60 k
  | 5 => modRow 24 80 k
  | 6 => modRow 33 106 k
  | _ => modRow 47 183 k

/-- The control ROM: "All 73 bytes in order of SEQ" (R92). -/
def controlRom : List Byte :=
  [0x20, 0x28, 0x30, 0x38, 0x40] ++
  [0x60, 0x80, 0x61, 0x81, 0x62, 0x82, 0x63, 0x83, 0x64, 0x84, 0x65, 0x85, 0x66, 0x86, 0x67, 0x87] ++
  [0x68, 0x88, 0x69, 0x89, 0x6A, 0x8A, 0x6B, 0x8B, 0x6C, 0x8C, 0x6D, 0x8D, 0x6E, 0x8E, 0x6F, 0x8F] ++
  [0x50] ++
  [0x70, 0x90, 0x71, 0x91, 0x72, 0x92, 0x73, 0x93, 0x74, 0x94, 0x75, 0x95, 0x76, 0x96, 0x77, 0x97] ++
  [0x78, 0x98, 0x79, 0x99, 0x7A, 0x9A, 0x7B, 0x9B, 0x7C, 0x9C, 0x7D, 0x9D, 0x7E, 0x9E, 0x7F, 0x9F] ++
  [0xA0, 0xC0, 0xE0]

end Sys2Proof.Machine
end

