-- ==== Sys2Proof/Machine/Search.lean ====
section
/-! DEFINITION. Unit 3, the modifier index search: `MSEARCH f,h,t` (42_modifier_search.md R60 to R72). The functions
take the modifier table as an argument (R60, decision D14) and the pixels of a tile as a function (R95). -/

namespace Sys2Proof.Machine

/-- `clamp(v)` (R62): saturates into 0..255, never wraps. -/
def clamp (v : Int) : Byte :=
  if v < 0 then 0 else if 255 < v then 255 else BitVec.ofInt 8 v

/-- `DEC(b, m)` (R63): the same modifier on each channel, each clamped independently. -/
def decodedColor (b : Color) (m : Int) : Color where
  r := clamp (b.r.toNat + m)
  g := clamp (b.g.toNat + m)
  b := clamp (b.b.toNat + m)

/-- The square of a channel difference, exact (R64). -/
def sqDiff (q p : Byte) : Nat := ((q.toNat : Int) - p.toNat).natAbs ^ 2

/-- `ERR(q, p) = 3·dR² + 6·dG² + 1·dB²` (R64). -/
def pixelError (q p : Color) : Nat := 3 * sqDiff q.r p.r + 6 * sqDiff q.g p.g + 1 * sqDiff q.b p.b

/-- `e[k]`: the error of entry `k` of a table row (R65). -/
def entryError (row : BitVec 2 → Int) (b p : Color) (k : BitVec 2) : Nat :=
  pixelError (decodedColor b (row k)) p

/-- One step of the scan of R65: replace only on strictly less. -/
def scanStep (e : BitVec 2 → Nat) (best : BitVec 2 × Nat) (k : BitVec 2) : BitVec 2 × Nat :=
  if e k < best.2 then (k, e k) else best

/-- `PIXBEST(b, p, t)` (R65): the least index of least error and that error, by the sequential scan of R65. The
software's early exit (R66) is not in it. -/
def pixBest (row : BitVec 2 → Int) (b p : Color) : BitVec 2 × Nat :=
  [1, 2, 3].foldl (scanStep (entryError row b p)) (0, entryError row b p 0)

/-- `IDXBITS(x, y, k)` (R67): bit 1 of the index in the upper plane, bit 0 in the lower, at `POS(x, y)` (R43). -/
def indexBits (p : Pixel) (k : BitVec 2) : Word32 :=
  ((k.extractLsb' 1 1).setWidth 32 <<< (16 + pixelPos p)) ||| ((k.extractLsb' 0 1).setWidth 32 <<< pixelPos p)

/-- The score of a half under a table row: the sum of the least errors of its valid pixels (R69), an exact number (by
R68 it fits 24 bits). -/
def searchScore (row : BitVec 2 → Int) (px : Pixel → Color) (mask : BitVec 16) (f : Orient) (h : Half)
    (base : Color) : Nat :=
  ((validPixels mask f h).map fun p => (pixBest row base (px p)).2).sum

/-- The index bits of a half under a table row (R69); an invalid pixel sets no bit (R70). -/
def searchLow (row : BitVec 2 → Int) (px : Pixel → Color) (mask : BitVec 16) (f : Orient) (h : Half)
    (base : Color) : Word32 :=
  (validPixels mask f h).foldl (fun low p => low ||| indexBits p (pixBest row base (px p)).1) 0

/-- `MSEARCH f,h,t` under any modifier table (R60, R69): reads `TILE`, `MASK`, `BASE[f][h]`, writes `CAND`. -/
def msearchWith (tab : Config.ModTab) (f : Orient) (h : Half) (t : BitVec 3) (s : State) : State :=
  setCand s
    ⟨BitVec.ofNat 24 (searchScore (tab t) (readPixel s.tile) s.mask f h (getBase s f h)),
     searchLow (tab t) (readPixel s.tile) s.mask f h (getBase s f h)⟩

/-- `MSEARCH f,h,t` (R69) of a block configured with a modifier table (R60, decision D14). -/
def execMsearchWith (tab : Config.ModTab) (f : Orient) (h : Half) (t : BitVec 3) (s : State) :
    Host.Outcome State Fault Refusal :=
  .next (msearchWith tab f h t s)

/-- `MSEARCH f,h,t` (R69) with the default table of R60. -/
def execMsearch (f : Orient) (h : Half) (t : BitVec 3) (s : State) : Host.Outcome State Fault Refusal :=
  execMsearchWith modTab f h t s

end Sys2Proof.Machine
end

