-- ==== Sys2Proof/Machine/Select.lean ====
section
/-! DEFINITION. Unit 4, the score comparator and mux tree: `TBEST f,h,t` and `SELORI` (43_score_select.md R73 to R79). -/

namespace Sys2Proof.Machine

/-- `TBEST f,h,t` (R73): keep the candidate if `t = 0` or its score is strictly smaller (unsigned). -/
def execTbest (f : Orient) (h : Half) (t : BitVec 3) (s : State) : Host.Outcome State Fault Refusal :=
  if t = 0 ∨ s.cand.score < (getBest s f h).score then .next (setBest s f h ⟨t, s.cand.score, s.cand.low⟩)
  else .next s

/-- The total of an orientation, the sum of its two halves' best scores (R75). By R68 no reachable sum overflows the
24-bit register; in a state no run reaches the register wraps (log 10). -/
def totalOf (s : State) (f : Orient) : Score := (getBest s f .h0).score + (getBest s f .h1).score

/-- The better orientation: 1 only if its total is strictly smaller (R75). -/
def betterOrient (total0 total1 : Score) : Orient :=
  if total1 < total0 then .f1 else .f0

/-- `SELORI` (R75): writes `TOTAL[0]`, `TOTAL[1]`, `SEL`. -/
def execSelori (s : State) : Host.Outcome State Fault Refusal :=
  let t0 := totalOf s .f0
  let t1 := totalOf s .f1
  .next (setSel (setTotal (setTotal s .f0 t0) .f1 t1) (betterOrient t0 t1))

end Sys2Proof.Machine
end

