-- ==== Sys2Proof/Machine/Serializer.lean ====
section
/-! DEFINITION. Unit 6, the big-endian serializer: `SER` (45_big_endian_serializer.md R87 to R89). -/

namespace Sys2Proof.Machine

/-- `SER` (R87): `HIGH` then `LOW` into `OUT`, each most significant byte first. -/
def execSer (s : State) : Host.Outcome State Fault Refusal :=
  .next (writeOut (writeOut s 0 (wordBytes s.high)) 4 (wordBytes s.low))

end Sys2Proof.Machine
end

