-- ==== Sys2Proof/Machine/Dispatch.lean ====
section
/-! DEFINITION. Dispatch (46_block_sequencer.md R91): one arm per constructor of Instr. -/

namespace Sys2Proof.Machine

def exec (i : Instr) (s : State) : Host.Outcome State Fault Refusal :=
  match i with
  | .avg f h => Sys2Proof.Machine.execAvg f h s
  | .qbase f => Sys2Proof.Machine.execQbase f s
  | .msearch f h t => Sys2Proof.Machine.execMsearch f h t s
  | .tbest f h t => Sys2Proof.Machine.execTbest f h t s
  | .selori => Sys2Proof.Machine.execSelori s
  | .pack => Sys2Proof.Machine.execPack s
  | .ser => Sys2Proof.Machine.execSer s
  | .blkIndiv b => Sys2Proof.Machine.execBlkIndiv b s
  | .blkDiff b => Sys2Proof.Machine.execBlkDiff b s

end Sys2Proof.Machine
end

