-- ==== Sys2Proof/Machine/HostEvents.lean ====
section
/-! DEFINITION. The three host events (46_block_sequencer.md R97 to R99, 70_reset_and_hazards.md R113) and the host's
script of what it drives on the input pins. -/

namespace Sys2Proof.Machine

/-- The host drives nothing. -/
def noDrive : Drive := ⟨false, none, false⟩

/-- What the host drives during this step: the first entry of its script, nothing when the script is empty. -/
def currentDrive (s : State) : Drive := s.host.script.headD noDrive

/-- The host goes on to its next entry. -/
def nextDrive (s : State) : State := setHost s ⟨s.host.script.tail, s.host.received⟩

/-- `RESET` (R113): `PHASE <- Idle`, `SEQ <- 0`, and every other register takes the value log 1 names for it (R22
leaves it unspecified). The host is another agent and keeps what it has. -/
def hostReset (s : State) : State := setHost State.reset s.host

/-- `START(tile, mask)` (R97): `TILE[0..47] <- tile`, `MASK <- mask`, `SEQ <- 0`, `PHASE <- Run`. -/
def hostStart (o : Offer) (s : State) : State :=
  setPhase (setSeq (setMask (setTile s o.tile) o.mask) 0) .run

/-- `TAKE` (R98): the host receives the 8 bytes of `OUT`; `PHASE <- Idle`. -/
def hostTake (s : State) : State :=
  setHost (setPhase s .idle) ⟨s.host.script, s.host.received ++ [outBytes s]⟩

end Sys2Proof.Machine
end

