-- ==== Sys2Proof/Machine/Sequencer.lean ====
section
/-! DEFINITION. The sequencer (46_block_sequencer.md R90, R91) over any control ROM and any dispatch, and one step of the
block with its host. The dispatch is `exec`, or `execWith` of a modifier table (R60). -/

namespace Sys2Proof.Machine

/-- What performs a micro-operation: `exec`, or the dispatch of a block configured with a modifier table (R60). -/
abbrev Dispatcher := Instr → State → Host.Outcome State Fault Refusal

/-- The end of a step (R90): `SEQ <- SEQ + 1`, or at the last word `PHASE <- Done` and `SEQ <- 0` (R89). -/
def advance (s : State) : State :=
  if s.seq.toNat < Config.romLen - 1 then setSeq s (s.seq + 1) else setSeq (setPhase s .done) 0

/-- What a step makes of the outcome of its micro-operation. -/
def finishStep : Host.Outcome State Fault Refusal → Host.Outcome State Fault Refusal
  | .next s => .next (nextDrive (advance s))
  | .fault r => .fault r
  | .refused r => .refused r

/-- The sequencer's step (R90): fetch the control word at `SEQ`, perform its micro-operation (R91), advance. A reserved
word is refused (R37), and so is a `SEQ` past the ROM (log 7). -/
def sequencerStep (dispatch : Dispatcher) (rom : List Byte) (s : State) : Host.Outcome State Fault Refusal :=
  match rom[s.seq.toNat]? with
  | none => .refused (.noControlWord s.seq)
  | some w =>
    match decode [w] with
    | .instr i => finishStep (dispatch i s)
    | _ => .refused (.reservedControlWord w)

/-- One step of the block with its host, over any control ROM and any dispatch. `RESET` wins over everything (R103, R113). Else `START`
when Idle and offered (R97), `TAKE` when Done and ready (R98), the sequencer when in Run (R90); with no move enabled
nothing but the host's script changes (log 6). -/
def stepWith (dispatch : Dispatcher) (rom : List Byte) (s : State) : Host.Outcome State Fault Refusal :=
  if (currentDrive s).reset then .next (nextDrive (hostReset s))
  else
    match s.phase with
    | .idle =>
      match (currentDrive s).offer with
      | some o => .next (nextDrive (hostStart o s))
      | none => .next (nextDrive s)
    | .run => sequencerStep dispatch rom s
    | .done => if (currentDrive s).outReady then .next (nextDrive (hostTake s)) else .next (nextDrive s)

/-- The step at which the ROM holds a control word; past the ROM when it holds none. -/
def romIndex (rom : List Byte) (w : Byte) : BitVec 7 :=
  if w ∈ rom then BitVec.ofNat 7 (rom.idxOf w) else 127

/-- The host's script with the reset input low in the coming step. -/
def quietReset : List Drive → List Drive
  | [] => []
  | d :: ds => { d with reset := false } :: ds

/-- The state whose next step runs the control word `w` (log 9): the ROM is fixed, so `PHASE = Run` and `SEQ` is the
step at which the ROM holds `w`, with the reset input low. A word the ROM does not hold cannot be fetched. -/
def placeControlWord (rom : List Byte) (w : Byte) (s : State) : State :=
  setHost (setSeq (setPhase s .run) (romIndex rom w)) ⟨quietReset s.host.script, s.host.received⟩

/-- The state whose next step is refused for want of a control word: the 64-bit output blocks are no control words. -/
def placeNoWord (s : State) : State :=
  setHost (setSeq (setPhase s .run) 127) ⟨quietReset s.host.script, s.host.received⟩

end Sys2Proof.Machine
end

