-- ==== Sys2Proof/Machine/Step.lean ====
section
/-! DEFINITION. The step of the machine, over `exec` and the fixed control ROM of R92, and where an instruction is placed for the
next step to run it (log 9). -/

namespace Sys2Proof.Machine

/-- One step of the block with its host. -/
def step (s : State) : Host.Outcome State Fault Refusal := stepWith exec controlRom s

/-- The state whose next step fetches the instruction of `nbits` bits `w`. -/
def State.withFetchWord (s : State) (nbits w : Nat) : State :=
  match nbits with
  | 8 => placeControlWord controlRom (BitVec.ofNat 8 w) s
  | _ => placeNoWord s

end Sys2Proof.Machine
end

