-- ==== Sys2Proof/Machine/Configured.lean ====
section
/-! DEFINITION. The block with its modifier table as a configuration argument (42_modifier_search.md R60, decision D14):
dispatch, step and machine over any table. With the default table they are `exec`, `step` and `core`. -/

namespace Sys2Proof.Machine

/-- Dispatch (R91) under any modifier table. Only `MSEARCH` reads `MODTAB` (20_memory.md R23). -/
def execWith (tab : Config.ModTab) (i : Instr) (s : State) : Host.Outcome State Fault Refusal :=
  match i with
  | .avg f h => exec (.avg f h) s
  | .qbase f => exec (.qbase f) s
  | .msearch f h t => execMsearchWith tab f h t s
  | .tbest f h t => exec (.tbest f h t) s
  | .selori => exec .selori s
  | .pack => exec .pack s
  | .ser => exec .ser s
  | .blkIndiv b => exec (.blkIndiv b) s
  | .blkDiff b => exec (.blkDiff b) s

/-- One step of the block with its host, under any modifier table, over the fixed control ROM of R92. -/
def stepFor (tab : Config.ModTab) (s : State) : Host.Outcome State Fault Refusal := stepWith (execWith tab) controlRom s

/-- The machine under any modifier table, as the host's interface takes it. -/
def coreFor (tab : Config.ModTab) : Host.Core :=
  { State := State, Fault := Fault, Refusal := Refusal, step := stepFor tab, reset := State.reset }

end Sys2Proof.Machine
end

