-- ==== Sys2Proof/Machine/WholeTile.lean ====
section
/-! DEFINITION. `ENCODE(tile, mask)`, the function a whole run computes (46_block_sequencer.md R95, R96), line by line,
over exact numbers and any modifier table. No step of the machine calls it. -/

namespace Sys2Proof.Machine

/-- The base colors of an orientation: `quantize(a[f][0], a[f][1])` (R56). -/
def tileBase (px : Pixel → Color) (mask : BitVec 16) (f : Orient) (h : Half) : Color :=
  match h with
  | .h0 => baseFirst (averageHalf px mask f .h0) (averageHalf px mask f .h1)
  | .h1 => baseSecond (averageHalf px mask f .h0) (averageHalf px mask f .h1)

/-- `S[f][h][t]` (R69). -/
def tileScore (tab : Config.ModTab) (px : Pixel → Color) (mask : BitVec 16) (f : Orient) (h : Half) (t : BitVec 3) : Nat :=
  searchScore (tab t) px mask f h (tileBase px mask f h)

/-- `L[f][h][t]` (R69). -/
def tileLow (tab : Config.ModTab) (px : Pixel → Color) (mask : BitVec 16) (f : Orient) (h : Half) (t : BitVec 3) : Word32 :=
  searchLow (tab t) px mask f h (tileBase px mask f h)

/-- The eight table numbers, ascending. -/
def allTables : List (BitVec 3) := [0, 1, 2, 3, 4, 5, 6, 7]

/-- The least table number of least score (R74). -/
def leastTable (score : BitVec 3 → Nat) : BitVec 3 :=
  (allTables.find? fun t => allTables.all fun u => decide (score t ≤ score u)).getD 0

/-- `tb[f][h]`. -/
def tileTable (tab : Config.ModTab) (px : Pixel → Color) (mask : BitVec 16) (f : Orient) (h : Half) : BitVec 3 :=
  leastTable (tileScore tab px mask f h)

/-- `total[f]`. -/
def tileTotal (tab : Config.ModTab) (px : Pixel → Color) (mask : BitVec 16) (f : Orient) : Nat :=
  tileScore tab px mask f .h0 (tileTable tab px mask f .h0) + tileScore tab px mask f .h1 (tileTable tab px mask f .h1)

/-- `s`: 1 only if the flipped orientation's total is strictly smaller (R75). -/
def tileFlip (tab : Config.ModTab) (px : Pixel → Color) (mask : BitVec 16) : Orient :=
  if tileTotal tab px mask .f1 < tileTotal tab px mask .f0 then .f1 else .f0

/-- `high` of the tile under an orientation (R80). -/
def tileHigh (tab : Config.ModTab) (px : Pixel → Color) (mask : BitVec 16) (f : Orient) : Word32 :=
  packHigh (hibaseOf (averageHalf px mask f .h0) (averageHalf px mask f .h1))
    (tileTable tab px mask f .h0) (tileTable tab px mask f .h1) f

/-- `low` of the tile under an orientation (R80). -/
def tileLowWord (tab : Config.ModTab) (px : Pixel → Color) (mask : BitVec 16) (f : Orient) : Word32 :=
  tileLow tab px mask f .h0 (tileTable tab px mask f .h0) ||| tileLow tab px mask f .h1 (tileTable tab px mask f .h1)

/-- `ENCODE` over the pixels of a tile and any modifier table (R95). -/
def encodePixels (tab : Config.ModTab) (px : Pixel → Color) (mask : BitVec 16) : List Byte :=
  wordBytes (tileHigh tab px mask (tileFlip tab px mask)) ++ wordBytes (tileLowWord tab px mask (tileFlip tab px mask))

/-- `ENCODE(tile, mask)` (R95) with the default modifier table. -/
def encodeTile (tile : Tile) (mask : BitVec 16) : List Byte := encodePixels modTab (tilePixel tile) mask

end Sys2Proof.Machine
end

