-- ==== Sys2Proof/Safety.lean ====
section
/-! DEFINITION. The terms claims use: the registers by name, what each micro-operation reads and writes (the
"Operands" lines of 40 to 45), runs of the machine, the invariants, the software's scorer of R66, and the labels and
counts that no step depends on (R93, R121). -/

namespace Sys2Proof.Safety

open Sys2Proof.Machine

/-- The registers a micro-operation can read or write (R8 to R19). `PHASE` and `SEQ` belong to the sequencer. -/
inductive Reg where
  | tile
  | mask
  | avg (f : Orient) (h : Half)
  | base (f : Orient) (h : Half)
  | diff (f : Orient)
  | hibase (f : Orient)
  | cand
  | best (f : Orient) (h : Half)
  | total (f : Orient)
  | sel
  | high
  | low
  | out
  deriving DecidableEq, Repr

/-- Two states hold the same value in a register; a buffer's value is that of its 48 or 8 bytes. -/
def SameReg (s t : State) : Reg → Prop
  | .tile => ∀ a < Config.tileBytes, Memory.read s.tile a = Memory.read t.tile a
  | .mask => s.mask = t.mask
  | .avg f h => getAvg s f h = getAvg t f h
  | .base f h => getBase s f h = getBase t f h
  | .diff f => s.diff.get f = t.diff.get f
  | .hibase f => s.hibase.get f = t.hibase.get f
  | .cand => s.cand = t.cand
  | .best f h => getBest s f h = getBest t f h
  | .total f => s.total.get f = t.total.get f
  | .sel => s.sel = t.sel
  | .high => s.high = t.high
  | .low => s.low = t.low
  | .out => ∀ a < Config.outBytes, Memory.read s.out a = Memory.read t.out a

/-- What a micro-operation may read (the "Operands" lines of R46, R56, R69, R73, R75, R80, R87). `TBEST` with `t ≠ 0`
may keep `BEST[f][h]`, so all of it is listed; `PACK` reads the winner's registers, so both orientations' are. -/
def reads : Instr → List Reg
  | .avg _ _ => [.tile, .mask]
  | .qbase f => [.avg f .h0, .avg f .h1]
  | .msearch f h _ => [.tile, .mask, .base f h]
  | .tbest f h t => if t = 0 then [.cand] else [.cand, .best f h]
  | .selori => [.best .f0 .h0, .best .f0 .h1, .best .f1 .h0, .best .f1 .h1]
  | .pack =>
    [.sel, .hibase .f0, .hibase .f1, .best .f0 .h0, .best .f0 .h1, .best .f1 .h0, .best .f1 .h1]
  | .ser => [.high, .low]
  | .blkIndiv _ => []
  | .blkDiff _ => []

/-- What a micro-operation may write (the "Operands" lines of R46, R56, R69, R73, R75, R80, R87). -/
def writes : Instr → List Reg
  | .avg f h => [.avg f h]
  | .qbase f => [.base f .h0, .base f .h1, .diff f, .hibase f]
  | .msearch _ _ _ => [.cand]
  | .tbest f h _ => [.best f h]
  | .selori => [.total .f0, .total .f1, .sel]
  | .pack => [.high, .low]
  | .ser => [.out]
  | .blkIndiv _ => []
  | .blkDiff _ => []

/-- The search steps of one half in the order of R92: each table's `MSEARCH`, then its `TBEST`. -/
def searchProgram (f : Orient) (h : Half) : List Instr :=
  allTables.flatMap fun t => [.msearch f h t, .tbest f h t]

/-- The order of work of R92: the averages, then for each orientation its base colors and the searches of its two
halves, then `SELORI`, `PACK`, `SER`. -/
def romProgram : List Instr :=
  [.avg .f0 .h0, .avg .f0 .h1, .avg .f1 .h0, .avg .f1 .h1]
  ++ ([Orient.f0, Orient.f1].flatMap fun f => .qbase f :: (searchProgram f .h0 ++ searchProgram f .h1))
  ++ [.selori, .pack, .ser]

/-- Every micro-operation of a list reads only registers in `held` or written by an earlier one of the list (R94). -/
def writtenBeforeRead (held : List Reg) : List Instr → Bool
  | [] => true
  | i :: is => (reads i).all (fun r => decide (r ∈ held)) && writtenBeforeRead (writes i ++ held) is

/-- Micro-operations performed one after another, without the sequencer. -/
def execAll : List Instr → State → Host.Outcome State Fault Refusal
  | [], s => .next s
  | i :: is, s =>
    match exec i s with
    | .next t => execAll is t
    | .fault r => .fault r
    | .refused r => .refused r

/-- `k` steps under a step function, stopping at the first fault or refusal. -/
def stepsOf (next : State → Host.Outcome State Fault Refusal) : Nat → State → Host.Outcome State Fault Refusal
  | 0, s => .next s
  | k + 1, s =>
    match next s with
    | .next t => stepsOf next k t
    | .fault r => .fault r
    | .refused r => .refused r

/-- `k` steps of the machine. -/
def steps (k : Nat) (s : State) : Host.Outcome State Fault Refusal := stepsOf step k s

/-- The host does not reset the block during the next `k` steps. -/
def NoReset (k : Nat) (s : State) : Prop := ∀ d ∈ s.host.script.take k, d.reset = false

/-- A state some host can bring the block to from reset. -/
def Reachable (s : State) : Prop :=
  ∃ (script : List Drive) (k : Nat), steps k (setHost State.reset ⟨script, []⟩) = .next s

/-- The instruction at the step register of a running block (R90). -/
def CurrentInstr (s : State) (i : Instr) : Prop :=
  ∃ w, controlRom[s.seq.toNat]? = some w ∧ decode [w] = .instr i

/-- `SEQ` is 0 to 72, and 0 unless the block runs (R7). -/
def SeqInRange (s : State) : Prop := s.seq.toNat < Config.romLen ∧ (s.phase ≠ .run → s.seq = 0)

/-- Both buffers are in canonical form, within their address spaces (R23). -/
def MemoryCanonical (s : State) : Prop :=
  Memory.wf Config.tileBytes s.tile = true ∧ Memory.wf Config.outBytes s.out = true

/-- The bounds of R68: a half's score is at most 5202000, a total at most 10404000. -/
def ScoresBounded (s : State) : Prop :=
  s.cand.score.toNat ≤ 5202000 ∧ (∀ f h, (getBest s f h).score.toNat ≤ 5202000) ∧
  ∀ f, (s.total.get f).toNat ≤ 10404000

/-- `HIBASE[f]` has bits 7:2 and bit 0 zero, and its bit 1 is `DIFF[f]` (R12, R13). -/
def HibaseShape (s : State) : Prop :=
  ∀ f, (s.hibase.get f).extractLsb' 2 6 = 0 ∧ (s.hibase.get f).extractLsb' 0 1 = 0 ∧
    (s.hibase.get f).extractLsb' 1 1 = modeBit (s.diff.get f)

/-- The color fields of a word describe these two base colors in individual mode (R83): `E4` of each field of R40. -/
def IndivFieldsGive (w : Word32) (c0 c1 : Color) : Prop :=
  c0 = ⟨e4 (w.extractLsb' 28 4), e4 (w.extractLsb' 20 4), e4 (w.extractLsb' 12 4)⟩ ∧
  c1 = ⟨e4 (w.extractLsb' 24 4), e4 (w.extractLsb' 16 4), e4 (w.extractLsb' 8 4)⟩

/-- The color fields of a word describe these two base colors in differential mode (R83): `E5` of each 5-bit field of
R41, and `E5((field5 + sext_3(field3)) & 0x1f)`. -/
def DiffFieldsGive (w : Word32) (c0 c1 : Color) : Prop :=
  c0 = ⟨e5 (w.extractLsb' 27 5), e5 (w.extractLsb' 19 5), e5 (w.extractLsb' 11 5)⟩ ∧
  c1 = ⟨e5 (w.extractLsb' 27 5 + (w.extractLsb' 24 3).signExtend 5),
        e5 (w.extractLsb' 19 5 + (w.extractLsb' 16 3).signExtend 5),
        e5 (w.extractLsb' 11 5 + (w.extractLsb' 8 3).signExtend 5)⟩

/-- The color fields of a word describe two base colors under a mode (R83). -/
def FieldsGive (m : Mode) (w : Word32) (c0 c1 : Color) : Prop :=
  match m with
  | .individual => IndivFieldsGive w c0 c1
  | .differential => DiffFieldsGive w c0 c1

/-- The base colors of each orientation are those its color fields describe (R83). -/
def BaseMatchesFields (s : State) : Prop :=
  ∀ f, FieldsGive (s.diff.get f) (s.hibase.get f) (getBase s f .h0) (getBase s f .h1)

/-- The bits of `LOW` that belong to a half (R71): its positions in both planes. -/
def halfPlanes : Orient → Half → Word32
  | .f0, .h0 => 0x00FF00FF
  | .f0, .h1 => 0xFF00FF00
  | .f1, .h0 => 0x33333333
  | .f1, .h1 => 0xCCCCCCCC

/-- `BEST[f][h].low` has bits only at the positions of the pixels of `HALF(f, h)` (R15), and so has the candidate that
the running block is about to compare. -/
def LowInHalf (s : State) : Prop :=
  (∀ f h, (getBest s f h).low &&& ~~~(halfPlanes f h) = 0) ∧
  (s.phase = .run → ∀ f h t, CurrentInstr s (.tbest f h t) → s.cand.low &&& ~~~(halfPlanes f h) = 0)

/-- In Done, `OUT` is `HIGH` then `LOW`, each most significant byte first (R26, R89). -/
def OutIsBlock (s : State) : Prop := s.phase = .done → outBytes s = wordBytes s.high ++ wordBytes s.low

/-- The bytes a host may expect of a Done block (R116). -/
def OutIsEncoding (s : State) : Prop :=
  s.phase = .done → outBytes s = encodePixels modTab (readPixel s.tile) s.mask

/-- The micro-operation is among the first `n` control words (R92). -/
def Performed (n : Nat) (i : Instr) : Prop := i ∈ romProgram.take n

/-- After the first `n` control words of a run, each register they have written holds what `ENCODE(TILE, MASK)` gives it
under a modifier table (R92, R94, R95); `CAND`, when the word to come is the `TBEST` that reads it. -/
structure RunValues (tab : Config.ModTab) (n : Nat) (s : State) : Prop where
  avg : ∀ f h, Performed n (.avg f h) → getAvg s f h = averageHalf (readPixel s.tile) s.mask f h
  base : ∀ f, Performed n (.qbase f) → ∀ h, getBase s f h = tileBase (readPixel s.tile) s.mask f h
  diff : ∀ f, Performed n (.qbase f) →
    s.diff.get f =
      chooseMode (averageHalf (readPixel s.tile) s.mask f .h0) (averageHalf (readPixel s.tile) s.mask f .h1)
  hibase : ∀ f, Performed n (.qbase f) →
    s.hibase.get f =
      hibaseOf (averageHalf (readPixel s.tile) s.mask f .h0) (averageHalf (readPixel s.tile) s.mask f .h1)
  cand : ∀ f h t, romProgram[n]? = some (.tbest f h t) →
    s.cand.score.toNat = tileScore tab (readPixel s.tile) s.mask f h t ∧
    s.cand.low = tileLow tab (readPixel s.tile) s.mask f h t
  /-- `BEST[f][h]` is the least table of least score among those compared so far (R73, R74). -/
  best : ∀ f h t, Performed n (.tbest f h t) →
    Performed n (.tbest f h (getBest s f h).table) ∧
    (getBest s f h).score.toNat = tileScore tab (readPixel s.tile) s.mask f h (getBest s f h).table ∧
    (getBest s f h).low = tileLow tab (readPixel s.tile) s.mask f h (getBest s f h).table ∧
    (getBest s f h).score.toNat ≤ tileScore tab (readPixel s.tile) s.mask f h t ∧
    (tileScore tab (readPixel s.tile) s.mask f h t = (getBest s f h).score.toNat →
      (getBest s f h).table.toNat ≤ t.toNat)
  total : Performed n .selori → ∀ f, (s.total.get f).toNat = tileTotal tab (readPixel s.tile) s.mask f
  sel : Performed n .selori → s.sel = tileFlip tab (readPixel s.tile) s.mask
  high : Performed n .pack →
    s.high = tileHigh tab (readPixel s.tile) s.mask (tileFlip tab (readPixel s.tile) s.mask)
  low : Performed n .pack →
    s.low = tileLowWord tab (readPixel s.tile) s.mask (tileFlip tab (readPixel s.tile) s.mask)
  out : Performed n .ser → outBytes s = encodePixels tab (readPixel s.tile) s.mask

/-- The run invariant: a running block holds what its first `SEQ` control words compute, a Done block what all 73 do. -/
def RunHolds (tab : Config.ModTab) (s : State) : Prop :=
  (s.phase = .run → RunValues tab s.seq.toNat s) ∧ (s.phase = .done → RunValues tab Config.romLen s)

/-- In differential mode no channel's base plus delta leaves 0..31 (R44, R59). -/
def DeltaSumsInRange (s : State) : Prop :=
  ∀ f, s.diff.get f = .differential →
    ∀ pos ∈ [24, 16, 8],
      0 ≤ (((s.hibase.get f).extractLsb' (pos + 3) 5).toNat : Int) + ((s.hibase.get f).extractLsb' pos 3).toInt ∧
      (((s.hibase.get f).extractLsb' (pos + 3) 5).toNat : Int) + ((s.hibase.get f).extractLsb' pos 3).toInt ≤ 31

/-- The mask constants of the halves (R45). -/
def halfMask : Orient → Half → BitVec 16
  | .f0, .h0 => 0x3333
  | .f0, .h1 => 0xCCCC
  | .f1, .h0 => 0x00FF
  | .f1, .h1 => 0xFF00

/-- The sum of channel `c` (0, 1, 2 = R, G, B) over the pixel numbers that are in a half and valid (R24, R45, R46). -/
def maskedSum (s : State) (f : Orient) (h : Half) (c : Nat) : Nat :=
  ((List.range 16).map fun i =>
    if (s.mask &&& halfMask f h).getLsbD i then (Memory.read s.tile (3 * i + c)).toNat else 0).sum

/-- The least of the four entry errors of a pixel (R65). -/
def leastError (row : BitVec 2 → Int) (b p : Color) : Nat :=
  min (min (entryError row b p 0) (entryError row b p 1)) (min (entryError row b p 2) (entryError row b p 3))

/-- `k` is the least index of least value (R65). -/
def IsLeastIndex (e : BitVec 2 → Nat) (k : BitVec 2) : Prop := ∀ j, e k ≤ e j ∧ (e j = e k → k.toNat ≤ j.toNat)

/-- `t` is the least table number of least value (R74). -/
def IsLeastTable (e : BitVec 3 → Nat) (t : BitVec 3) : Prop := ∀ u, e t ≤ e u ∧ (e u = e t → t.toNat ≤ u.toNat)

/-- The rows of R36 as (match, mask): AVG, QBASE, MSEARCH, TBEST, SELORI, PACK, SER. -/
def controlRows : List (Byte × Byte) :=
  [(0x20, 0xE7), (0x40, 0xEF), (0x60, 0xE0), (0x80, 0xE0), (0xA0, 0xFF), (0xC0, 0xFF), (0xE0, 0xFF)]

/-- The number of rows of R36 a control word selects: `(cw & mask) = match`. -/
def rowsSelected (w : Byte) : Nat := (controlRows.filter fun r => decide (w &&& r.2 = r.1)).length

/-- The output block of `BLK.INDIV` that a winner's registers make (R39, R40, R43). -/
def indivWinner (s : State) : IndivBlock :=
  let w := s.hibase.get s.sel
  let low := (getBest s s.sel .h0).low ||| (getBest s s.sel .h1).low
  { r1 := w.extractLsb' 28 4, r2 := w.extractLsb' 24 4, g1 := w.extractLsb' 20 4, g2 := w.extractLsb' 16 4,
    b1 := w.extractLsb' 12 4, b2 := w.extractLsb' 8 4, table1 := (getBest s s.sel .h0).table,
    table2 := (getBest s s.sel .h1).table, flip := s.sel, msb := low.extractLsb' 16 16, lsb := low.extractLsb' 0 16 }

/-- The output block of `BLK.DIFF` that a winner's registers make (R39, R41, R43). -/
def diffWinner (s : State) : DiffBlock :=
  let w := s.hibase.get s.sel
  let low := (getBest s s.sel .h0).low ||| (getBest s s.sel .h1).low
  { r := w.extractLsb' 27 5, dr := w.extractLsb' 24 3, g := w.extractLsb' 19 5, dg := w.extractLsb' 16 3,
    b := w.extractLsb' 11 5, db := w.extractLsb' 8 3, table1 := (getBest s s.sel .h0).table,
    table2 := (getBest s s.sel .h1).table, flip := s.sel, msb := low.extractLsb' 16 16, lsb := low.extractLsb' 0 16 }

/-- One step of the software's scan with its early exit (R66): green is scored first, and the red and blue terms are
skipped once the running score exceeds the current best. -/
def earlyExitStep (row : BitVec 2 → Int) (b p : Color) (best : BitVec 2 × Nat) (k : BitVec 2) : BitVec 2 × Nat :=
  let q := decodedColor b (row k)
  if best.2 < 6 * sqDiff q.g p.g then best
  else if entryError row b p k < best.2 then (k, entryError row b p k) else best

/-- The software's scorer (R66): the reference that `pixBest` is compared with. No step uses it. -/
def earlyExitBest (row : BitVec 2 → Int) (b p : Color) : BitVec 2 × Nat :=
  [1, 2, 3].foldl (earlyExitStep row b p) (0, entryError row b p 0)

/-- A value and the number of evaluations of `ERR` made to get it (R121). -/
structure Counted (α : Type) where
  val : α
  errs : Nat
  deriving DecidableEq, Repr

/-- One evaluation of `ERR` for an entry (R65), counted. -/
def countedError (row : BitVec 2 → Int) (b p : Color) (k : BitVec 2) : Counted Nat := ⟨entryError row b p k, 1⟩

/-- One step of the scan of R65, its evaluation of `ERR` counted. -/
def countedScanStep (row : BitVec 2 → Int) (b p : Color) (best : Counted (BitVec 2 × Nat)) (k : BitVec 2) :
    Counted (BitVec 2 × Nat) :=
  let e := countedError row b p k
  ⟨if e.val < best.val.2 then (k, e.val) else best.val, best.errs + e.errs⟩

/-- `PIXBEST` (R65), its evaluations of `ERR` counted. -/
def countedPixBest (row : BitVec 2 → Int) (b p : Color) : Counted (BitVec 2 × Nat) :=
  let e := countedError row b p 0
  [1, 2, 3].foldl (countedScanStep row b p) ⟨(0, e.val), e.errs⟩

/-- One pixel of the loop of R69: score, index bits and count after it. -/
def countedPixel (row : BitVec 2 → Int) (px : Pixel → Color) (base : Color) (acc : Counted (Nat × Word32)) (p : Pixel) :
    Counted (Nat × Word32) :=
  let best := countedPixBest row base (px p)
  ⟨(acc.val.1 + best.val.2, acc.val.2 ||| indexBits p best.val.1), acc.errs + best.errs⟩

/-- A micro-operation, its evaluations of `ERR` counted as the loop of R69 makes them. No other operation makes any. -/
def countedExec (i : Instr) (s : State) : Counted (Host.Outcome State Fault Refusal) :=
  match i with
  | .msearch f h t =>
    let found := (validPixels s.mask f h).foldl (countedPixel (modTab t) (readPixel s.tile) (getBase s f h)) ⟨(0, 0), 0⟩
    ⟨.next (setCand s ⟨BitVec.ofNat 24 found.val.1, found.val.2⟩), found.errs⟩
  | .avg f h => ⟨exec (.avg f h) s, 0⟩
  | .qbase f => ⟨exec (.qbase f) s, 0⟩
  | .tbest f h t => ⟨exec (.tbest f h t) s, 0⟩
  | .selori => ⟨exec .selori s, 0⟩
  | .pack => ⟨exec .pack s, 0⟩
  | .ser => ⟨exec .ser s, 0⟩
  | .blkIndiv b => ⟨exec (.blkIndiv b) s, 0⟩
  | .blkDiff b => ⟨exec (.blkDiff b) s, 0⟩

/-- Micro-operations performed one after another, their evaluations of `ERR` counted. -/
def countedAll : List Instr → State → Counted (Host.Outcome State Fault Refusal)
  | [], s => ⟨.next s, 0⟩
  | i :: is, s =>
    let first := countedExec i s
    match first.val with
    | .next t => ⟨(countedAll is t).val, first.errs + (countedAll is t).errs⟩
    | o => ⟨o, first.errs⟩

/-- The number of valid pixels of a mask. -/
def validCount (mask : BitVec 16) : Nat := ((List.range 16).filter fun i => mask.getLsbD i).length

/-- The source's state names (R93): labels for ranges of `SEQ`, no state of their own. -/
inductive SourceState where
  | notStarted
  | computingAverages
  | searchingOrientation (f : Orient)
  | searchingTables (f : Orient) (h : Half)
  | finishing
  | done
  deriving DecidableEq, Repr

/-- The label of a state (R93). `SEQ` 4 and 37 are in `SearchingOrientation` and in neither `SearchingTables`. -/
def sourceState (s : State) : SourceState :=
  match s.phase with
  | .idle => .notStarted
  | .done => .done
  | .run =>
    let n := s.seq.toNat
    if n < 4 then .computingAverages
    else if n < 5 then .searchingOrientation .f0
    else if n < 21 then .searchingTables .f0 .h0
    else if n < 37 then .searchingTables .f0 .h1
    else if n < 38 then .searchingOrientation .f1
    else if n < 54 then .searchingTables .f1 .h0
    else if n < 70 then .searchingTables .f1 .h1
    else .finishing

end Sys2Proof.Safety
end

