-- ==== Sys2Proof/Certificates/Slice0/Obligations.lean ====
section
/-! DEFINITION. The statements for the provers, each a rule of spec/ or derived from one. -/

open Sys2Proof Sys2Proof.Machine Sys2Proof.Safety

/-- R36: words written out from the encoding column, one a family, and the two block formats by their bit 33 (R39). -/
def Obligations.ControlWordsDecode : Prop :=
  decode [0b00111000#8] = .instr (.avg .f1 .h1) ∧ decode [0b01010000#8] = .instr (.qbase .f1) ∧
  decode [0b01101101#8] = .instr (.msearch .f0 .h1 5) ∧ decode [0b10010110#8] = .instr (.tbest .f1 .h0 6) ∧
  decode [0b10100000#8] = .instr .selori ∧ decode [0b11000000#8] = .instr .pack ∧
  decode [0b11100000#8] = .instr .ser ∧ decode [0b00000000#8] = .reserved 0 ∧
  (∃ b, decode [0x45, 0x77, 0xBA, 0x24, 0x13, 0x37, 0x89, 0x11] = .instr (.blkIndiv b) ∧ b.r1 = 4 ∧ b.r2 = 5) ∧
  (∃ b, decode [0x7D, 0x62, 0x81, 0xB6, 0xE8, 0x17, 0x3E, 0x81] = .instr (.blkDiff b) ∧ b.r = 15 ∧ b.dr = 5)

/-- R34 to R43: decoding an encoded instruction gives it back, with every operand and every block field at every
value. -/
def Obligations.DecodeOfEncode : Prop :=
  ∀ i : Instr, decode (encode i) = .instr i

/-- R34 to R43: each word has one meaning, so encoding what was decoded gives the bytes back. -/
def Obligations.EncodeOfDecode : Prop :=
  ∀ (bs : List Byte) (i : Instr), decode bs = .instr i → encode i = bs

/-- R36, R37: the rows are disjoint; a word that selects none is reserved and one that selects one is an operation; 73
words are defined and 183 reserved; the ROM holds each defined word exactly once and no reserved one; over any ROM and
any dispatch a reserved word is refused. -/
def Obligations.ReservedWordsRefused : Prop :=
  (∀ w : Byte, rowsSelected w ≤ 1) ∧
  (∀ w : Byte, rowsSelected w = 0 ↔ decode [w] = .reserved w) ∧
  (∀ w : Byte, rowsSelected w = 1 ↔ ∃ i, i.isMicroOp = true ∧ decode [w] = .instr i) ∧
  ((List.range 256).filter fun n => rowsSelected (BitVec.ofNat 8 n) = 0).length = 183 ∧
  ((List.range 256).filter fun n => rowsSelected (BitVec.ofNat 8 n) = 1).length = 73 ∧
  controlRom.Nodup ∧ (∀ w : Byte, w ∈ controlRom ↔ rowsSelected w = 1) ∧
  ∀ (dispatch : Dispatcher) (rom : List Byte) (s : State) (w : Byte), rom[s.seq.toNat]? = some w → rowsSelected w = 0 →
    sequencerStep dispatch rom s = .refused (.reservedControlWord w)

/-- R92, R94: the ROM holds 73 words, the encodings of the order of work, and in that order every register an operation
reads was written by `START` or earlier in the run. -/
def Obligations.RomFollowsOrderOfWork : Prop :=
  controlRom.length = 73 ∧ romProgram.flatMap encode = controlRom ∧
  writtenBeforeRead [.tile, .mask] romProgram = true

/-- R90, R91: when the block runs, the reset input is low and the word at `SEQ` decodes to a well-formed `i`, the step is
`exec i`, then the end of the step: `SEQ` counts on, or at the last word `PHASE` is Done and `SEQ` is 0; and the host
goes on to its next entry. A fault or a refusal of `exec i` is the step's. -/
def Obligations.StepRunsDecoded : Prop :=
  ∀ (s : State) (w : Byte) (i : Instr),
    (currentDrive s).reset = false → s.phase = .run → controlRom[s.seq.toNat]? = some w →
    decode [w] = .instr i → i.WellFormed →
      (∀ t, exec i s = .next t →
        step s = .next (nextDrive (if t.seq.toNat < 72 then setSeq t (t.seq + 1) else setSeq (setPhase t .done) 0))) ∧
      (∀ r, exec i s = .fault r → step s = .fault r) ∧ (∀ r, exec i s = .refused r → step s = .refused r)

/-- R96, R100, R105: from every state whose `SEQ` is in range the step answers a next state, whatever the data and
whatever the host drives. R90 gives the sequencer a step only in Run: that an Idle block with no offer, and a Done block
not taken, answer a next state too is the model's choice (log 6). -/
def Obligations.StepNeverStops : Prop :=
  ∀ s : State, SeqInRange s → ∃ t, step s = .next t

/-- R7, R90: a running step, not reset, leaves `SEQ` one greater, and at the last word `PHASE` Done and `SEQ` 0. -/
def Obligations.StepAdvancesSeq : Prop :=
  ∀ s : State, s.phase = .run → (currentDrive s).reset = false → s.seq.toNat ≤ 72 →
    ∃ t, step s = .next t ∧
      if s.seq.toNat = 72 then t.phase = .done ∧ t.seq = 0 else t.phase = .run ∧ t.seq.toNat = s.seq.toNat + 1

/-- R94, R122: a run that is not reset takes exactly 73 steps, whatever the data; before that the block still runs. -/
def Obligations.RunTakesSeventyThreeSteps : Prop :=
  ∀ s : State, s.phase = .run → s.seq = 0 → NoReset 73 s →
    (∀ k < 73, ∃ t, steps k s = .next t ∧ t.phase = .run ∧ t.seq.toNat = k) ∧
    ∃ t, steps 73 s = .next t ∧ t.phase = .done ∧ t.seq = 0

/-- R97: an offer to an idle block that is not reset is accepted: the 48 bytes and the mask are latched, `SEQ` is 0 and
`PHASE` Run, and nothing else changes. -/
def Obligations.StartLatchesTile : Prop :=
  ∀ (s : State) (o : Offer), s.phase = .idle → (currentDrive s).reset = false → (currentDrive s).offer = some o →
    ∃ t, step s = .next t ∧ t.phase = .run ∧ t.seq = 0 ∧ t.mask = o.mask ∧
      (∀ a (ha : a < 48), Memory.read t.tile a = o.tile[a]) ∧
      (∀ a, 48 ≤ a → Memory.read t.tile a = Memory.read s.tile a) ∧
      t = { s with phase := .run, seq := 0, tile := t.tile, mask := o.mask,
                   host := ⟨s.host.script.tail, s.host.received⟩ }

/-- R97, R118: while the block is not idle, what the host offers has no effect at all. -/
def Obligations.BusyIgnoresOffers : Prop :=
  ∀ (s : State) (d : Drive) (ds : List Drive) (o : Option Offer), s.phase ≠ .idle →
    step { s with host := ⟨{ d with offer := o } :: ds, s.host.received⟩ } =
    step { s with host := ⟨{ d with offer := none } :: ds, s.host.received⟩ }

/-- R98: in Done a ready host that does not reset receives the 8 bytes of `OUT`; `PHASE` is Idle; nothing else changes. -/
def Obligations.TakeDeliversBlock : Prop :=
  ∀ s : State, s.phase = .done → (currentDrive s).reset = false → (currentDrive s).outReady = true →
    step s = .next { s with phase := .idle, host := ⟨s.host.script.tail, s.host.received ++ [outBytes s]⟩ } ∧
    outBytes s = [Memory.read s.out 0, Memory.read s.out 1, Memory.read s.out 2, Memory.read s.out 3,
      Memory.read s.out 4, Memory.read s.out 5, Memory.read s.out 6, Memory.read s.out 7]

/-- R90, R97, R98: an idle block that is offered nothing and a Done block whose host is not ready do nothing; only the
host's script goes on. That such a step is a next state and no stop is the model's reading (log 6). -/
def Obligations.WaitingChangesNothing : Prop :=
  ∀ s : State, (currentDrive s).reset = false →
    (s.phase = .idle ∧ (currentDrive s).offer = none) ∨ (s.phase = .done ∧ (currentDrive s).outReady = false) →
      step s = .next { s with host := ⟨s.host.script.tail, s.host.received⟩ }

/-- R103, R113: the reset input wins in every state, whatever else the host drives: `PHASE` is Idle, `SEQ` is 0, and
what the host already has stays. R113 leaves the other registers unspecified; that they take the values of log 1 is the
model's choice. -/
def Obligations.ResetWins : Prop :=
  ∀ s : State, (currentDrive s).reset = true →
    ∃ t, step s = .next t ∧ t.phase = .idle ∧ t.seq = 0 ∧ t.host = ⟨s.host.script.tail, s.host.received⟩ ∧
      t = { State.reset with host := t.host }

/-- R20, R22: after reset the block is idle with `SEQ` 0; it accepts a tile and shows no block. R98 and U6 leave the
output bus unspecified while `out_valid` is 0: that `outData` is then no value is the model's choice (log 12). -/
def Obligations.ResetIsIdle : Prop :=
  State.reset.phase = .idle ∧ State.reset.seq = 0 ∧ inReady State.reset = true ∧ outValid State.reset = false ∧
  outData State.reset = none

/-- Every invariant of the statements below holds at reset. The register values it rests on are the model's choice (log 1, log 3). -/
def Obligations.InvariantsAtReset : Prop :=
  SeqInRange State.reset ∧ MemoryCanonical State.reset ∧ ScoresBounded State.reset ∧ HibaseShape State.reset ∧
  BaseMatchesFields State.reset ∧ DeltaSumsInRange State.reset ∧ LowInHalf State.reset ∧ OutIsBlock State.reset ∧
  RunHolds modTab State.reset

/-- R7: every step keeps `SEQ` in 0..72, and 0 while the block does not run. -/
def Obligations.StepKeepsSeqInRange : Prop :=
  ∀ s t : State, SeqInRange s → step s = .next t → SeqInRange t

/-- R23, R28: every step keeps both buffers within their address spaces and canonical (log 3). -/
def Obligations.StepKeepsMemoryCanonical : Prop :=
  ∀ s t : State, MemoryCanonical s → step s = .next t → MemoryCanonical t

/-- R68: every step keeps every score and total within its bound, so no 24-bit register overflows. -/
def Obligations.StepKeepsScoresBounded : Prop :=
  ∀ s t : State, ScoresBounded s → step s = .next t → ScoresBounded t

/-- R12, R13: every step keeps bits 7:2 and 0 of `HIBASE` zero and its bit 1 equal to `DIFF`. -/
def Obligations.StepKeepsHibaseShape : Prop :=
  ∀ s t : State, HibaseShape s → step s = .next t → HibaseShape t

/-- R11, R83: every step keeps the base colors those that `HIBASE`'s color fields describe. -/
def Obligations.StepKeepsBaseMatchesFields : Prop :=
  ∀ s t : State, BaseMatchesFields s → step s = .next t → BaseMatchesFields t

/-- R44, R59: every step keeps each differential base plus delta in 0..31. -/
def Obligations.StepKeepsDeltaSumsInRange : Prop :=
  ∀ s t : State, DeltaSumsInRange s → step s = .next t → DeltaSumsInRange t

/-- R15, R71: every step keeps the index bits of each half at the positions of its own pixels. -/
def Obligations.StepKeepsLowInHalf : Prop :=
  ∀ s t : State, LowInHalf s → step s = .next t → LowInHalf t

/-- R26, R89: every step keeps `OUT` equal to `HIGH ∥ LOW`, most significant byte first, whenever the block is Done. -/
def Obligations.StepKeepsOutIsBlock : Prop :=
  ∀ s t : State, OutIsBlock s → step s = .next t → OutIsBlock t

/-- The table of 10_state.md section 4: the frame of every micro-operation (AVG, QBASE, MSEARCH, TBEST, SELORI, PACK,
SER): a register outside its "Writes" line, `PHASE`, `SEQ` and the host's side are unchanged. -/
def Obligations.OperationsLeaveOtherRegisters : Prop :=
  ∀ (i : Instr) (s t : State), exec i s = .next t →
    (∀ r, r ∉ writes i → SameReg s t r) ∧ t.phase = s.phase ∧ t.seq = s.seq ∧ t.host = s.host

/-- R23, R29: the memory frame of every micro-operation. None writes `TILE`; `SER` writes the addresses 0 to 7 of `OUT`
and no other; no other operation writes `OUT`. -/
def Obligations.OperationsLeaveMemory : Prop :=
  ∀ (i : Instr) (s t : State), exec i s = .next t →
    (∀ a, Memory.read t.tile a = Memory.read s.tile a) ∧
    (∀ a, ¬ (i = .ser ∧ a < 8) → Memory.read t.out a = Memory.read s.out a)

/-- The "Reads" lines of R46, R56, R69, R73, R75, R80, R87: every micro-operation completes, and what it writes depends
on nothing but the registers it reads. -/
def Obligations.OperationsReadOnlyTheirOperands : Prop :=
  ∀ (i : Instr) (s s' : State), i.WellFormed → (∀ r ∈ reads i, SameReg s s' r) →
    ∃ t t', exec i s = .next t ∧ exec i s' = .next t' ∧ ∀ r ∈ writes i, SameReg t t' r

/-- The table of 10_state.md section 4, R8, R9, R84: in a step that is not a reset, a register changes only if the
operation at `SEQ` lists it as written, or it is `TILE` or `MASK` and the block accepts a tile. -/
def Obligations.OnlyWritersWrite : Prop :=
  ∀ (s t : State) (r : Reg), (currentDrive s).reset = false → step s = .next t → ¬ SameReg s t r →
    (s.phase = .run ∧ ∃ i, CurrentInstr s i ∧ r ∈ writes i) ∨
    (s.phase = .idle ∧ (currentDrive s).offer.isSome = true ∧ (r = .tile ∨ r = .mask))

/-- R6: how `PHASE` changes. Only an accepted offer leaves Idle, only the last word leaves Run for Done, only a `TAKE`
leaves Done, and a reset leads to Idle from everywhere. -/
def Obligations.PhaseTransitions : Prop :=
  ∀ s t : State, step s = .next t →
    t.phase =
      if (currentDrive s).reset then .idle
      else match s.phase with
        | .idle => if (currentDrive s).offer.isSome then .run else .idle
        | .run => if s.seq.toNat < 72 then .run else .done
        | .done => if (currentDrive s).outReady then .idle else .done

/-- R98, R99: the host receives a block exactly when it takes one, and keeps what it has. -/
def Obligations.HostReceivesOnlyByTake : Prop :=
  ∀ s t : State, step s = .next t →
    t.host.received =
      if (currentDrive s).reset = false ∧ s.phase = .done ∧ (currentDrive s).outReady = true
      then s.host.received ++ [outBytes s] else s.host.received

/-- R45, R71: the halves as columns and rows and as mask constants; under each orientation every pixel is in exactly one
half, and each half has 8; the plane bits of a half are those of its own pixels. -/
def Obligations.HalvesArePartition : Prop :=
  (∀ f h p, p ∈ half f h ↔ valid (halfMask f h) p = true) ∧
  (∀ f p, (p ∈ half f .h0 ∨ p ∈ half f .h1) ∧ ¬ (p ∈ half f .h0 ∧ p ∈ half f .h1)) ∧
  (∀ h p, p ∈ half .f0 h ↔ p.x.val ∈ (match h with | .h0 => [0, 1] | .h1 => [2, 3])) ∧
  (∀ h p, p ∈ half .f1 h ↔ p.y.val ∈ (match h with | .h0 => [0, 1] | .h1 => [2, 3])) ∧
  (∀ f h, (half f h).length = 8 ∧ (half f h).Nodup) ∧
  ∀ f h p, ((halfPlanes f h).getLsbD (pixelPos p) = true ↔ p ∈ half f h) ∧
    ((halfPlanes f h).getLsbD (16 + pixelPos p) = true ↔ p ∈ half f h)

/-- R46: `AVG f,h` completes and each channel is `(sum + 4) div 8`, the sum over the valid pixels of the half given by
the mask constants of R45; the divisor is 8 whatever their number. -/
def Obligations.AverageIsRoundedEighth : Prop :=
  ∀ (s : State) (f : Orient) (h : Half),
    ∃ t, exec (.avg f h) s = .next t ∧
      (getAvg t f h).r.toNat = (maskedSum s f h 0 + 4) / 8 ∧
      (getAvg t f h).g.toNat = (maskedSum s f h 1 + 4) / 8 ∧
      (getAvg t f h).b.toNat = (maskedSum s f h 2 + 4) / 8

/-- R50 to R52: `Q5(c)` and `Q4(c)` are the integers nearest to `31·c/255` and `15·c/255`, and no other integer is as
near. -/
def Obligations.QuantizersRoundToNearest : Prop :=
  (∀ (c : Byte) (q : BitVec 5), 2 * (255 * (q.toNat : Int) - 31 * c.toNat).natAbs ≤ 255 ↔ q = q5 c) ∧
  (∀ (c : Byte) (q : BitVec 4), 2 * (255 * (q.toNat : Int) - 15 * c.toNat).natAbs ≤ 255 ↔ q = q4 c)

/-- R53, R54: `E5(q) = 8q + q div 4`, the 5 bits then the top 3; `E4(q) = 17q`, the 4 bits twice. -/
def Obligations.ExpandReplicatesBits : Prop :=
  (∀ q : BitVec 5, (e5 q).toNat = 8 * q.toNat + q.toNat / 4 ∧ e5 q = q ++ q.extractLsb' 2 3) ∧
  (∀ q : BitVec 4, (e4 q).toNat = 17 * q.toNat ∧ e4 q = q ++ q)

/-- R42: a delta in −4..3 is stored as `d mod 8`, reads back by sign extension, and gives the decoder's second
channel. -/
def Obligations.DeltaFieldReadsBack : Prop :=
  ∀ d : Int, -4 ≤ d → d ≤ 3 →
    ((twos3 d).toNat : Int) = d % 8 ∧ (twos3 d).toInt = d ∧
    ∀ p : BitVec 5, second5 p d = p + (twos3 d).signExtend 5

/-- R55 to R57: `QBASE f` completes, and the pair is differential exactly when all three deltas are in −4..3; it is not
a scored choice. -/
def Obligations.DifferentialWheneverRepresentable : Prop :=
  ∀ (s : State) (f : Orient),
    ∃ t, exec (.qbase f) s = .next t ∧
      (t.diff.get f = .differential ↔
        (-4 ≤ ((q5 (getAvg s f .h1).r).toNat : Int) - (q5 (getAvg s f .h0).r).toNat ∧
          ((q5 (getAvg s f .h1).r).toNat : Int) - (q5 (getAvg s f .h0).r).toNat ≤ 3) ∧
        (-4 ≤ ((q5 (getAvg s f .h1).g).toNat : Int) - (q5 (getAvg s f .h0).g).toNat ∧
          ((q5 (getAvg s f .h1).g).toNat : Int) - (q5 (getAvg s f .h0).g).toNat ≤ 3) ∧
        (-4 ≤ ((q5 (getAvg s f .h1).b).toNat : Int) - (q5 (getAvg s f .h0).b).toNat ∧
          ((q5 (getAvg s f .h1).b).toNat : Int) - (q5 (getAvg s f .h0).b).toNat ≤ 3)) ∧
      (getAvg s f .h0 = getAvg s f .h1 → t.diff.get f = .differential)

/-- R58: three deltas in range give differential mode and its mode bit; in the differential branch `(p1 + d) & 0x1f` is
the second half's own 5-bit channel, and its base color is `E5` of that, which is `E5(Q5(AVG[f][1]))`. -/
def Obligations.DifferentialRoundTrip : Prop :=
  ∀ (s : State) (f : Orient) (a1 a2 : Color), a1 = getAvg s f .h0 → a2 = getAvg s f .h1 →
    ∃ t, exec (.qbase f) s = .next t ∧
      (inRange (delta a1.r a2.r) = true → inRange (delta a1.g a2.g) = true → inRange (delta a1.b a2.b) = true →
        t.diff.get f = .differential ∧ (t.hibase.get f).getLsbD 1 = true) ∧
      (t.diff.get f = .differential →
        (second5 (q5 a1.r) (delta a1.r a2.r) = q5 a2.r ∧ second5 (q5 a1.g) (delta a1.g a2.g) = q5 a2.g ∧
         second5 (q5 a1.b) (delta a1.b a2.b) = q5 a2.b) ∧
        getBase t f .h1 = ⟨e5 (second5 (q5 a1.r) (delta a1.r a2.r)), e5 (second5 (q5 a1.g) (delta a1.g a2.g)),
          e5 (second5 (q5 a1.b) (delta a1.b a2.b))⟩ ∧
        getBase t f .h1 = ⟨e5 (q5 a2.r), e5 (q5 a2.g), e5 (q5 a2.b)⟩)

/-- R41, R56: the registers `QBASE f` writes in the differential branch, `HIBASE` field by field. -/
def Obligations.DifferentialBaseColors : Prop :=
  ∀ (s : State) (f : Orient) (a1 a2 : Color), a1 = getAvg s f .h0 → a2 = getAvg s f .h1 →
    inRange (delta a1.r a2.r) = true → inRange (delta a1.g a2.g) = true → inRange (delta a1.b a2.b) = true →
    ∃ t, exec (.qbase f) s = .next t ∧ t.diff.get f = .differential ∧
      getBase t f .h0 = ⟨e5 (q5 a1.r), e5 (q5 a1.g), e5 (q5 a1.b)⟩ ∧
      getBase t f .h1 = ⟨e5 (q5 a2.r), e5 (q5 a2.g), e5 (q5 a2.b)⟩ ∧
      (t.hibase.get f).extractLsb' 27 5 = q5 a1.r ∧ (t.hibase.get f).extractLsb' 24 3 = twos3 (delta a1.r a2.r) ∧
      (t.hibase.get f).extractLsb' 19 5 = q5 a1.g ∧ (t.hibase.get f).extractLsb' 16 3 = twos3 (delta a1.g a2.g) ∧
      (t.hibase.get f).extractLsb' 11 5 = q5 a1.b ∧ (t.hibase.get f).extractLsb' 8 3 = twos3 (delta a1.b a2.b) ∧
      (t.hibase.get f).extractLsb' 0 8 = 2

/-- R40, R56: the registers `QBASE f` writes when some delta is out of range, `HIBASE` field by field. -/
def Obligations.IndividualBaseColors : Prop :=
  ∀ (s : State) (f : Orient) (a1 a2 : Color), a1 = getAvg s f .h0 → a2 = getAvg s f .h1 →
    ¬ (inRange (delta a1.r a2.r) = true ∧ inRange (delta a1.g a2.g) = true ∧ inRange (delta a1.b a2.b) = true) →
    ∃ t, exec (.qbase f) s = .next t ∧ t.diff.get f = .individual ∧
      getBase t f .h0 = ⟨e4 (q4 a1.r), e4 (q4 a1.g), e4 (q4 a1.b)⟩ ∧
      getBase t f .h1 = ⟨e4 (q4 a2.r), e4 (q4 a2.g), e4 (q4 a2.b)⟩ ∧
      (t.hibase.get f).extractLsb' 28 4 = q4 a1.r ∧ (t.hibase.get f).extractLsb' 24 4 = q4 a2.r ∧
      (t.hibase.get f).extractLsb' 20 4 = q4 a1.g ∧ (t.hibase.get f).extractLsb' 16 4 = q4 a2.g ∧
      (t.hibase.get f).extractLsb' 12 4 = q4 a1.b ∧ (t.hibase.get f).extractLsb' 8 4 = q4 a2.b ∧
      (t.hibase.get f).extractLsb' 0 8 = 0

/-- R62: clamping saturates and never wraps; a base channel plus a modifier of `MODTAB` is −183 to 438. -/
def Obligations.ClampSaturates : Prop :=
  (∀ v : Int, v < 0 → clamp v = 0) ∧ (∀ v : Int, 255 < v → clamp v = 255) ∧
  (∀ v : Int, 0 ≤ v → v ≤ 255 → ((clamp v).toNat : Int) = v) ∧
  ∀ (c : Byte) (t : BitVec 3) (k : BitVec 2),
    -183 ≤ (c.toNat : Int) + modTab t k ∧ (c.toNat : Int) + modTab t k ≤ 438

/-- R61: in every row entry 2 is minus entry 0 and entry 3 is minus entry 1, 0 the small and 1 the large offset. -/
def Obligations.TableRowsAreSymmetric : Prop :=
  ∀ t : BitVec 3, modTab t 2 = -(modTab t 0) ∧ modTab t 3 = -(modTab t 1) ∧
    0 < modTab t 0 ∧ modTab t 0 < modTab t 1

/-- R65: `PIXBEST` answers the least of the four errors and the least index that has it, under any table row. -/
def Obligations.PixelBestIsLeast : Prop :=
  ∀ (row : BitVec 2 → Int) (b p : Color),
    (pixBest row b p).2 = leastError row b p ∧ (pixBest row b p).2 = entryError row b p (pixBest row b p).1 ∧
    IsLeastIndex (entryError row b p) (pixBest row b p).1

/-- R66: the software's scan with its early exit and the hardware's scan without it give the same index and error. -/
def Obligations.EarlyExitIsUnobservable : Prop :=
  ∀ (row : BitVec 2 → Int) (b p : Color), earlyExitBest row b p = pixBest row b p

/-- R67 to R71: `MSEARCH f,h,t` completes. The score is the exact sum of the valid pixels' least errors. A pixel of the
half that is valid has its least index of least error at its two bits of `CAND.low`; every other pixel has zeros
there. -/
def Obligations.SearchScoresAndIndexes : Prop :=
  ∀ (s : State) (f : Orient) (h : Half) (n : BitVec 3),
    ∃ t, exec (.msearch f h n) s = .next t ∧
      t.cand.score.toNat =
        ((half f h).map fun p =>
          if valid s.mask p then leastError (modTab n) (getBase s f h) (readPixel s.tile p) else 0).sum ∧
      ∀ p : Pixel,
        if p ∈ half f h ∧ valid s.mask p = true then
          ∃ k, IsLeastIndex (entryError (modTab n) (getBase s f h) (readPixel s.tile p)) k ∧
            t.cand.low.getLsbD (pixelPos p) = k.getLsbD 0 ∧ t.cand.low.getLsbD (16 + pixelPos p) = k.getLsbD 1
        else t.cand.low.getLsbD (pixelPos p) = false ∧ t.cand.low.getLsbD (16 + pixelPos p) = false

/-- R73: `TBEST f,h,t` completes: it stores the candidate when `t = 0` or its score is strictly smaller, and otherwise
changes nothing. -/
def Obligations.BestTableKeptOnTie : Prop :=
  ∀ (s : State) (f : Orient) (h : Half) (n : BitVec 3),
    ∃ t, exec (.tbest f h n) s = .next t ∧
      (n = 0 ∨ s.cand.score.toNat < (getBest s f h).score.toNat →
        getBest t f h = ⟨n, s.cand.score, s.cand.low⟩) ∧
      (n ≠ 0 → (getBest s f h).score.toNat ≤ s.cand.score.toNat → t = s)

/-- R74: after the eight `MSEARCH`, `TBEST` pairs of a half, from any state, `BEST[f][h]` is the least table number of
least score with its score and index bits. -/
def Obligations.EightTablesGiveLeast : Prop :=
  ∀ (s : State) (f : Orient) (h : Half),
    ∃ t n, execAll (searchProgram f h) s = .next t ∧
      IsLeastTable (fun u => searchScore (modTab u) (readPixel s.tile) s.mask f h (getBase s f h)) n ∧
      (getBest t f h).table = n ∧
      (getBest t f h).score.toNat = searchScore (modTab n) (readPixel s.tile) s.mask f h (getBase s f h) ∧
      (getBest t f h).low = searchLow (modTab n) (readPixel s.tile) s.mask f h (getBase s f h)

/-- R75: `SELORI` completes: the totals are the sums of the best scores, and the flipped orientation is chosen only when
its total is strictly smaller. Within the bound of R68 the sums are exact; outside it the 24-bit registers wrap, which
is the model's choice (log 10). -/
def Obligations.OrientationOfLesserTotal : Prop :=
  ∀ s : State,
    ∃ t, exec .selori s = .next t ∧
      (∀ f, t.total.get f = (getBest s f .h0).score + (getBest s f .h1).score) ∧
      (t.sel = .f1 ↔ (t.total.get .f1).toNat < (t.total.get .f0).toNat) ∧
      (ScoresBounded s → ∀ f, (t.total.get f).toNat = (getBest s f .h0).score.toNat + (getBest s f .h1).score.toNat)

/-- R80: the words `PACK` assembles, in every state. -/
def Obligations.PackAssemblesWords : Prop :=
  ∀ s : State,
    ∃ t, exec .pack s = .next t ∧
      t.high = (s.hibase.get s.sel ||| ((getBest s s.sel .h0).table.setWidth 32 <<< 5)
        ||| ((getBest s s.sel .h1).table.setWidth 32 <<< 2) ||| (orientBit s.sel).setWidth 32) ∧
      t.low = ((getBest s s.sel .h0).low ||| (getBest s s.sel .h1).low)

/-- R81, R82: the field view of `HIGH` and `LOW` after `PACK`, given the two invariants on `HIBASE` and `BEST.low`. -/
def Obligations.PackedFields : Prop :=
  ∀ s : State, HibaseShape s → LowInHalf s →
    ∃ t, exec .pack s = .next t ∧
      t.high.extractLsb' 0 1 = orientBit s.sel ∧ t.high.extractLsb' 1 1 = modeBit (s.diff.get s.sel) ∧
      t.high.extractLsb' 2 3 = (getBest s s.sel .h1).table ∧ t.high.extractLsb' 5 3 = (getBest s s.sel .h0).table ∧
      t.high.extractLsb' 8 24 = (s.hibase.get s.sel).extractLsb' 8 24 ∧
      ∀ h p, p ∈ half s.sel h →
        t.low.getLsbD (pixelPos p) = (getBest s s.sel h).low.getLsbD (pixelPos p) ∧
        t.low.getLsbD (16 + pixelPos p) = (getBest s s.sel h).low.getLsbD (16 + pixelPos p)

/-- R39 to R41, R43: read back as an output block, the packed words are a `BLK.DIFF` or a `BLK.INDIV` according to
`DIFF[SEL]`, with the winner's fields. -/
def Obligations.PackedBlockDecodes : Prop :=
  ∀ s : State, HibaseShape s →
    ∃ t, exec .pack s = .next t ∧
      decode (wordBytes t.high ++ wordBytes t.low) =
        .instr (match s.diff.get s.sel with
          | .differential => .blkDiff (diffWinner s)
          | .individual => .blkIndiv (indivWinner s))

/-- R83: the color fields `PACK` emits describe the base colors the search used. -/
def Obligations.PackedColorsAreBaseColors : Prop :=
  ∀ s : State, BaseMatchesFields s →
    ∃ t, exec .pack s = .next t ∧
      FieldsGive (s.diff.get s.sel) t.high (getBase s s.sel .h0) (getBase s s.sel .h1)

/-- R26, R87: `SER` completes and `OUT[j]` is `BLK[63−8j : 56−8j]` of `BLK = HIGH ∥ LOW`; the first four bytes are
`HIGH`, the last four `LOW`. -/
def Obligations.SerializedBytes : Prop :=
  ∀ s : State,
    ∃ t, exec .ser s = .next t ∧
      outBytes t = wordBytes s.high ++ wordBytes s.low ∧
      ∀ j < 8, Memory.read t.out j = (s.high ++ s.low).extractLsb' (56 - 8 * j) 8

/-- R87: distinct pairs of words serialize to distinct byte strings. -/
def Obligations.SerializationIsInjective : Prop :=
  ∀ s s' t t' : State, exec .ser s = .next t → exec .ser s' = .next t' → outBytes t = outBytes t' →
    s.high = s'.high ∧ s.low = s'.low

/-- R36, R40, R41: the two output block formats are data, not operations; as an instruction each is refused by name in
every state, and no control word decodes to one. -/
def Obligations.OutputFormatsAreNoOperations : Prop :=
  (∀ b s, exec (.blkIndiv b) s = .refused (.outputFormat "BLK.INDIV")) ∧
  (∀ b s, exec (.blkDiff b) s = .refused (.outputFormat "BLK.DIFF")) ∧
  ∀ (w : Byte) (i : Instr), decode [w] = .instr i → i.WellFormed

/-- R95: from every idle state, whatever its registers hold, an accepted offer and the 73 steps after it end in Done with
`OUT = ENCODE(tile, mask)`. The first part is about the machine, with the default modifier table of R60 (log 4); the
second is about the block configured with any table (R60). -/
def Obligations.RunComputesEncode : Prop :=
  (∀ (s : State) (o : Offer), s.phase = .idle → (currentDrive s).offer = some o → NoReset 74 s →
    ∃ t, steps 74 s = .next t ∧ t.phase = .done ∧ outBytes t = encodeTile o.tile o.mask) ∧
  ∀ (tab : Config.ModTab) (s : State) (o : Offer),
    s.phase = .idle → (currentDrive s).offer = some o → NoReset 74 s →
      ∃ t, stepsOf (stepFor tab) 74 s = .next t ∧ t.phase = .done ∧
        outBytes t = encodePixels tab (tilePixel o.tile) o.mask

/-- R94, R116: every step keeps the run invariant, that each register the first `SEQ` words of a run have written holds
what `ENCODE(TILE, MASK)` gives it, and that a Done block holds what all 73 give; it makes `OUT` of a Done block
`ENCODE(TILE, MASK)`; and so `OUT` is in every state some host can bring the block to from reset. The modifier table is
the default of R60 (log 4). -/
def Obligations.DoneHoldsEncoding : Prop :=
  (∀ s t : State, RunHolds modTab s → step s = .next t → RunHolds modTab t) ∧
  (∀ s : State, RunHolds modTab s → OutIsEncoding s) ∧
  ∀ s : State, Reachable s → OutIsEncoding s

/-- R25, R96: `ENCODE` does not depend on the bytes of an invalid pixel, under any modifier table. -/
def Obligations.InvalidPixelsAreUnread : Prop :=
  ∀ (tab : Config.ModTab) (px px' : Pixel → Color) (mask : BitVec 16),
    (∀ p, valid mask p = true → px p = px' p) → encodePixels tab px mask = encodePixels tab px' mask

/-- R44, R96: with the empty mask every tile encodes to 00 00 00 02 00 00 00 00. -/
def Obligations.EmptyMaskEncoding : Prop :=
  ∀ tile : Tile, encodeTile tile 0 = [0x00, 0x00, 0x00, 0x02, 0x00, 0x00, 0x00, 0x00]

/-- R76: among the 128 combinations of an orientation and two tables, the selected one has the least total score; among
equal totals it has the least orientation, then the least first table, then the least second table. -/
def Obligations.SelectionIsLeastOfAll : Prop :=
  ∀ (tab : Config.ModTab) (px : Pixel → Color) (mask : BitVec 16) (f : Orient) (t1 t2 : BitVec 3),
    let sel := tileFlip tab px mask
    let best := tileTotal tab px mask sel
    let other := tileScore tab px mask f .h0 t1 + tileScore tab px mask f .h1 t2
    best ≤ other ∧
    (other = best →
      (orientBit sel).toNat < (orientBit f).toNat ∨
      (f = sel ∧ (tileTable tab px mask sel .h0).toNat < t1.toNat) ∨
      (f = sel ∧ tileTable tab px mask sel .h0 = t1 ∧ (tileTable tab px mask sel .h1).toNat ≤ t2.toNat))

/-- R121: the micro-operations of a run, with each evaluation of `ERR` counted where the scan of R65 makes it, give the
state they give uncounted, one by one and as a whole; the count is 64 for each valid pixel, at most 1024. -/
def Obligations.ErrorEvaluationCount : Prop :=
  (∀ (i : Instr) (s : State), (countedExec i s).val = exec i s) ∧
  ∀ s : State, ∃ t, execAll romProgram s = .next t ∧
    countedAll romProgram s = ⟨.next t, 64 * validCount s.mask⟩ ∧ 64 * validCount s.mask ≤ 1024
end

