-- ==== Sys2Proof/Laws/State.lean ====
section
/-! SUPPORT. What each register update changes and leaves: one lemma per field per update, true by rfl, so that no later
proof unfolds a record update; and the reads by `f` and `h` after them. -/

namespace Sys2Proof.Machine

@[simp] theorem byOrient_get_set {α : Type} (p : ByOrient α) (f f' : Orient) (v : α) :
    (p.set f v).get f' = if f' = f then v else p.get f' := by
  cases f <;> cases f' <;> rfl

@[simp] theorem byHalf_get_set {α : Type} (p : ByHalf α) (h h' : Half) (v : α) :
    (p.set h v).get h' = if h' = h then v else p.get h' := by
  cases h <;> cases h' <;> rfl

@[simp] theorem byHalf_get_mk_h0 {α : Type} (a b : α) : (ByHalf.mk a b).get .h0 = a := rfl

@[simp] theorem byHalf_get_mk_h1 {α : Type} (a b : α) : (ByHalf.mk a b).get .h1 = b := rfl

@[simp] theorem byOrient_get_mk_f0 {α : Type} (a b : α) : (ByOrient.mk a b).get .f0 = a := rfl

@[simp] theorem byOrient_get_mk_f1 {α : Type} (a b : α) : (ByOrient.mk a b).get .f1 = b := rfl

@[simp] theorem setPhase_phase (s : State) (p : Phase) : (setPhase s p).phase = p := rfl
@[simp] theorem setPhase_seq (s : State) (p : Phase) : (setPhase s p).seq = s.seq := rfl
@[simp] theorem setPhase_tile (s : State) (p : Phase) : (setPhase s p).tile = s.tile := rfl
@[simp] theorem setPhase_mask (s : State) (p : Phase) : (setPhase s p).mask = s.mask := rfl
@[simp] theorem setPhase_avg (s : State) (p : Phase) : (setPhase s p).avg = s.avg := rfl
@[simp] theorem setPhase_base (s : State) (p : Phase) : (setPhase s p).base = s.base := rfl
@[simp] theorem setPhase_diff (s : State) (p : Phase) : (setPhase s p).diff = s.diff := rfl
@[simp] theorem setPhase_hibase (s : State) (p : Phase) : (setPhase s p).hibase = s.hibase := rfl
@[simp] theorem setPhase_cand (s : State) (p : Phase) : (setPhase s p).cand = s.cand := rfl
@[simp] theorem setPhase_best (s : State) (p : Phase) : (setPhase s p).best = s.best := rfl
@[simp] theorem setPhase_total (s : State) (p : Phase) : (setPhase s p).total = s.total := rfl
@[simp] theorem setPhase_sel (s : State) (p : Phase) : (setPhase s p).sel = s.sel := rfl
@[simp] theorem setPhase_high (s : State) (p : Phase) : (setPhase s p).high = s.high := rfl
@[simp] theorem setPhase_low (s : State) (p : Phase) : (setPhase s p).low = s.low := rfl
@[simp] theorem setPhase_out (s : State) (p : Phase) : (setPhase s p).out = s.out := rfl
@[simp] theorem setPhase_host (s : State) (p : Phase) : (setPhase s p).host = s.host := rfl

@[simp] theorem setSeq_phase (s : State) (n : BitVec 7) : (setSeq s n).phase = s.phase := rfl
@[simp] theorem setSeq_seq (s : State) (n : BitVec 7) : (setSeq s n).seq = n := rfl
@[simp] theorem setSeq_tile (s : State) (n : BitVec 7) : (setSeq s n).tile = s.tile := rfl
@[simp] theorem setSeq_mask (s : State) (n : BitVec 7) : (setSeq s n).mask = s.mask := rfl
@[simp] theorem setSeq_avg (s : State) (n : BitVec 7) : (setSeq s n).avg = s.avg := rfl
@[simp] theorem setSeq_base (s : State) (n : BitVec 7) : (setSeq s n).base = s.base := rfl
@[simp] theorem setSeq_diff (s : State) (n : BitVec 7) : (setSeq s n).diff = s.diff := rfl
@[simp] theorem setSeq_hibase (s : State) (n : BitVec 7) : (setSeq s n).hibase = s.hibase := rfl
@[simp] theorem setSeq_cand (s : State) (n : BitVec 7) : (setSeq s n).cand = s.cand := rfl
@[simp] theorem setSeq_best (s : State) (n : BitVec 7) : (setSeq s n).best = s.best := rfl
@[simp] theorem setSeq_total (s : State) (n : BitVec 7) : (setSeq s n).total = s.total := rfl
@[simp] theorem setSeq_sel (s : State) (n : BitVec 7) : (setSeq s n).sel = s.sel := rfl
@[simp] theorem setSeq_high (s : State) (n : BitVec 7) : (setSeq s n).high = s.high := rfl
@[simp] theorem setSeq_low (s : State) (n : BitVec 7) : (setSeq s n).low = s.low := rfl
@[simp] theorem setSeq_out (s : State) (n : BitVec 7) : (setSeq s n).out = s.out := rfl
@[simp] theorem setSeq_host (s : State) (n : BitVec 7) : (setSeq s n).host = s.host := rfl

@[simp] theorem setTile_phase (s : State) (t : Tile) : (setTile s t).phase = s.phase := rfl
@[simp] theorem setTile_seq (s : State) (t : Tile) : (setTile s t).seq = s.seq := rfl
@[simp] theorem setTile_tile (s : State) (t : Tile) : (setTile s t).tile = Memory.writeBytes s.tile 0 t.toList := rfl
@[simp] theorem setTile_mask (s : State) (t : Tile) : (setTile s t).mask = s.mask := rfl
@[simp] theorem setTile_avg (s : State) (t : Tile) : (setTile s t).avg = s.avg := rfl
@[simp] theorem setTile_base (s : State) (t : Tile) : (setTile s t).base = s.base := rfl
@[simp] theorem setTile_diff (s : State) (t : Tile) : (setTile s t).diff = s.diff := rfl
@[simp] theorem setTile_hibase (s : State) (t : Tile) : (setTile s t).hibase = s.hibase := rfl
@[simp] theorem setTile_cand (s : State) (t : Tile) : (setTile s t).cand = s.cand := rfl
@[simp] theorem setTile_best (s : State) (t : Tile) : (setTile s t).best = s.best := rfl
@[simp] theorem setTile_total (s : State) (t : Tile) : (setTile s t).total = s.total := rfl
@[simp] theorem setTile_sel (s : State) (t : Tile) : (setTile s t).sel = s.sel := rfl
@[simp] theorem setTile_high (s : State) (t : Tile) : (setTile s t).high = s.high := rfl
@[simp] theorem setTile_low (s : State) (t : Tile) : (setTile s t).low = s.low := rfl
@[simp] theorem setTile_out (s : State) (t : Tile) : (setTile s t).out = s.out := rfl
@[simp] theorem setTile_host (s : State) (t : Tile) : (setTile s t).host = s.host := rfl

@[simp] theorem setMask_phase (s : State) (m : BitVec 16) : (setMask s m).phase = s.phase := rfl
@[simp] theorem setMask_seq (s : State) (m : BitVec 16) : (setMask s m).seq = s.seq := rfl
@[simp] theorem setMask_tile (s : State) (m : BitVec 16) : (setMask s m).tile = s.tile := rfl
@[simp] theorem setMask_mask (s : State) (m : BitVec 16) : (setMask s m).mask = m := rfl
@[simp] theorem setMask_avg (s : State) (m : BitVec 16) : (setMask s m).avg = s.avg := rfl
@[simp] theorem setMask_base (s : State) (m : BitVec 16) : (setMask s m).base = s.base := rfl
@[simp] theorem setMask_diff (s : State) (m : BitVec 16) : (setMask s m).diff = s.diff := rfl
@[simp] theorem setMask_hibase (s : State) (m : BitVec 16) : (setMask s m).hibase = s.hibase := rfl
@[simp] theorem setMask_cand (s : State) (m : BitVec 16) : (setMask s m).cand = s.cand := rfl
@[simp] theorem setMask_best (s : State) (m : BitVec 16) : (setMask s m).best = s.best := rfl
@[simp] theorem setMask_total (s : State) (m : BitVec 16) : (setMask s m).total = s.total := rfl
@[simp] theorem setMask_sel (s : State) (m : BitVec 16) : (setMask s m).sel = s.sel := rfl
@[simp] theorem setMask_high (s : State) (m : BitVec 16) : (setMask s m).high = s.high := rfl
@[simp] theorem setMask_low (s : State) (m : BitVec 16) : (setMask s m).low = s.low := rfl
@[simp] theorem setMask_out (s : State) (m : BitVec 16) : (setMask s m).out = s.out := rfl
@[simp] theorem setMask_host (s : State) (m : BitVec 16) : (setMask s m).host = s.host := rfl

@[simp] theorem setAvg_phase (s : State) (f : Orient) (h : Half) (c : Color) : (setAvg s f h c).phase = s.phase := rfl
@[simp] theorem setAvg_seq (s : State) (f : Orient) (h : Half) (c : Color) : (setAvg s f h c).seq = s.seq := rfl
@[simp] theorem setAvg_tile (s : State) (f : Orient) (h : Half) (c : Color) : (setAvg s f h c).tile = s.tile := rfl
@[simp] theorem setAvg_mask (s : State) (f : Orient) (h : Half) (c : Color) : (setAvg s f h c).mask = s.mask := rfl
@[simp] theorem setAvg_avg (s : State) (f : Orient) (h : Half) (c : Color) : (setAvg s f h c).avg = s.avg.set f ((s.avg.get f).set h c) := rfl
@[simp] theorem setAvg_base (s : State) (f : Orient) (h : Half) (c : Color) : (setAvg s f h c).base = s.base := rfl
@[simp] theorem setAvg_diff (s : State) (f : Orient) (h : Half) (c : Color) : (setAvg s f h c).diff = s.diff := rfl
@[simp] theorem setAvg_hibase (s : State) (f : Orient) (h : Half) (c : Color) : (setAvg s f h c).hibase = s.hibase := rfl
@[simp] theorem setAvg_cand (s : State) (f : Orient) (h : Half) (c : Color) : (setAvg s f h c).cand = s.cand := rfl
@[simp] theorem setAvg_best (s : State) (f : Orient) (h : Half) (c : Color) : (setAvg s f h c).best = s.best := rfl
@[simp] theorem setAvg_total (s : State) (f : Orient) (h : Half) (c : Color) : (setAvg s f h c).total = s.total := rfl
@[simp] theorem setAvg_sel (s : State) (f : Orient) (h : Half) (c : Color) : (setAvg s f h c).sel = s.sel := rfl
@[simp] theorem setAvg_high (s : State) (f : Orient) (h : Half) (c : Color) : (setAvg s f h c).high = s.high := rfl
@[simp] theorem setAvg_low (s : State) (f : Orient) (h : Half) (c : Color) : (setAvg s f h c).low = s.low := rfl
@[simp] theorem setAvg_out (s : State) (f : Orient) (h : Half) (c : Color) : (setAvg s f h c).out = s.out := rfl
@[simp] theorem setAvg_host (s : State) (f : Orient) (h : Half) (c : Color) : (setAvg s f h c).host = s.host := rfl

@[simp] theorem setBase_phase (s : State) (f : Orient) (c0 c1 : Color) : (setBase s f c0 c1).phase = s.phase := rfl
@[simp] theorem setBase_seq (s : State) (f : Orient) (c0 c1 : Color) : (setBase s f c0 c1).seq = s.seq := rfl
@[simp] theorem setBase_tile (s : State) (f : Orient) (c0 c1 : Color) : (setBase s f c0 c1).tile = s.tile := rfl
@[simp] theorem setBase_mask (s : State) (f : Orient) (c0 c1 : Color) : (setBase s f c0 c1).mask = s.mask := rfl
@[simp] theorem setBase_avg (s : State) (f : Orient) (c0 c1 : Color) : (setBase s f c0 c1).avg = s.avg := rfl
@[simp] theorem setBase_base (s : State) (f : Orient) (c0 c1 : Color) : (setBase s f c0 c1).base = s.base.set f ⟨c0, c1⟩ := rfl
@[simp] theorem setBase_diff (s : State) (f : Orient) (c0 c1 : Color) : (setBase s f c0 c1).diff = s.diff := rfl
@[simp] theorem setBase_hibase (s : State) (f : Orient) (c0 c1 : Color) : (setBase s f c0 c1).hibase = s.hibase := rfl
@[simp] theorem setBase_cand (s : State) (f : Orient) (c0 c1 : Color) : (setBase s f c0 c1).cand = s.cand := rfl
@[simp] theorem setBase_best (s : State) (f : Orient) (c0 c1 : Color) : (setBase s f c0 c1).best = s.best := rfl
@[simp] theorem setBase_total (s : State) (f : Orient) (c0 c1 : Color) : (setBase s f c0 c1).total = s.total := rfl
@[simp] theorem setBase_sel (s : State) (f : Orient) (c0 c1 : Color) : (setBase s f c0 c1).sel = s.sel := rfl
@[simp] theorem setBase_high (s : State) (f : Orient) (c0 c1 : Color) : (setBase s f c0 c1).high = s.high := rfl
@[simp] theorem setBase_low (s : State) (f : Orient) (c0 c1 : Color) : (setBase s f c0 c1).low = s.low := rfl
@[simp] theorem setBase_out (s : State) (f : Orient) (c0 c1 : Color) : (setBase s f c0 c1).out = s.out := rfl
@[simp] theorem setBase_host (s : State) (f : Orient) (c0 c1 : Color) : (setBase s f c0 c1).host = s.host := rfl

@[simp] theorem setDiff_phase (s : State) (f : Orient) (m : Mode) : (setDiff s f m).phase = s.phase := rfl
@[simp] theorem setDiff_seq (s : State) (f : Orient) (m : Mode) : (setDiff s f m).seq = s.seq := rfl
@[simp] theorem setDiff_tile (s : State) (f : Orient) (m : Mode) : (setDiff s f m).tile = s.tile := rfl
@[simp] theorem setDiff_mask (s : State) (f : Orient) (m : Mode) : (setDiff s f m).mask = s.mask := rfl
@[simp] theorem setDiff_avg (s : State) (f : Orient) (m : Mode) : (setDiff s f m).avg = s.avg := rfl
@[simp] theorem setDiff_base (s : State) (f : Orient) (m : Mode) : (setDiff s f m).base = s.base := rfl
@[simp] theorem setDiff_diff (s : State) (f : Orient) (m : Mode) : (setDiff s f m).diff = s.diff.set f m := rfl
@[simp] theorem setDiff_hibase (s : State) (f : Orient) (m : Mode) : (setDiff s f m).hibase = s.hibase := rfl
@[simp] theorem setDiff_cand (s : State) (f : Orient) (m : Mode) : (setDiff s f m).cand = s.cand := rfl
@[simp] theorem setDiff_best (s : State) (f : Orient) (m : Mode) : (setDiff s f m).best = s.best := rfl
@[simp] theorem setDiff_total (s : State) (f : Orient) (m : Mode) : (setDiff s f m).total = s.total := rfl
@[simp] theorem setDiff_sel (s : State) (f : Orient) (m : Mode) : (setDiff s f m).sel = s.sel := rfl
@[simp] theorem setDiff_high (s : State) (f : Orient) (m : Mode) : (setDiff s f m).high = s.high := rfl
@[simp] theorem setDiff_low (s : State) (f : Orient) (m : Mode) : (setDiff s f m).low = s.low := rfl
@[simp] theorem setDiff_out (s : State) (f : Orient) (m : Mode) : (setDiff s f m).out = s.out := rfl
@[simp] theorem setDiff_host (s : State) (f : Orient) (m : Mode) : (setDiff s f m).host = s.host := rfl

@[simp] theorem setHibase_phase (s : State) (f : Orient) (w : Word32) : (setHibase s f w).phase = s.phase := rfl
@[simp] theorem setHibase_seq (s : State) (f : Orient) (w : Word32) : (setHibase s f w).seq = s.seq := rfl
@[simp] theorem setHibase_tile (s : State) (f : Orient) (w : Word32) : (setHibase s f w).tile = s.tile := rfl
@[simp] theorem setHibase_mask (s : State) (f : Orient) (w : Word32) : (setHibase s f w).mask = s.mask := rfl
@[simp] theorem setHibase_avg (s : State) (f : Orient) (w : Word32) : (setHibase s f w).avg = s.avg := rfl
@[simp] theorem setHibase_base (s : State) (f : Orient) (w : Word32) : (setHibase s f w).base = s.base := rfl
@[simp] theorem setHibase_diff (s : State) (f : Orient) (w : Word32) : (setHibase s f w).diff = s.diff := rfl
@[simp] theorem setHibase_hibase (s : State) (f : Orient) (w : Word32) : (setHibase s f w).hibase = s.hibase.set f w := rfl
@[simp] theorem setHibase_cand (s : State) (f : Orient) (w : Word32) : (setHibase s f w).cand = s.cand := rfl
@[simp] theorem setHibase_best (s : State) (f : Orient) (w : Word32) : (setHibase s f w).best = s.best := rfl
@[simp] theorem setHibase_total (s : State) (f : Orient) (w : Word32) : (setHibase s f w).total = s.total := rfl
@[simp] theorem setHibase_sel (s : State) (f : Orient) (w : Word32) : (setHibase s f w).sel = s.sel := rfl
@[simp] theorem setHibase_high (s : State) (f : Orient) (w : Word32) : (setHibase s f w).high = s.high := rfl
@[simp] theorem setHibase_low (s : State) (f : Orient) (w : Word32) : (setHibase s f w).low = s.low := rfl
@[simp] theorem setHibase_out (s : State) (f : Orient) (w : Word32) : (setHibase s f w).out = s.out := rfl
@[simp] theorem setHibase_host (s : State) (f : Orient) (w : Word32) : (setHibase s f w).host = s.host := rfl

@[simp] theorem setCand_phase (s : State) (c : Cand) : (setCand s c).phase = s.phase := rfl
@[simp] theorem setCand_seq (s : State) (c : Cand) : (setCand s c).seq = s.seq := rfl
@[simp] theorem setCand_tile (s : State) (c : Cand) : (setCand s c).tile = s.tile := rfl
@[simp] theorem setCand_mask (s : State) (c : Cand) : (setCand s c).mask = s.mask := rfl
@[simp] theorem setCand_avg (s : State) (c : Cand) : (setCand s c).avg = s.avg := rfl
@[simp] theorem setCand_base (s : State) (c : Cand) : (setCand s c).base = s.base := rfl
@[simp] theorem setCand_diff (s : State) (c : Cand) : (setCand s c).diff = s.diff := rfl
@[simp] theorem setCand_hibase (s : State) (c : Cand) : (setCand s c).hibase = s.hibase := rfl
@[simp] theorem setCand_cand (s : State) (c : Cand) : (setCand s c).cand = c := rfl
@[simp] theorem setCand_best (s : State) (c : Cand) : (setCand s c).best = s.best := rfl
@[simp] theorem setCand_total (s : State) (c : Cand) : (setCand s c).total = s.total := rfl
@[simp] theorem setCand_sel (s : State) (c : Cand) : (setCand s c).sel = s.sel := rfl
@[simp] theorem setCand_high (s : State) (c : Cand) : (setCand s c).high = s.high := rfl
@[simp] theorem setCand_low (s : State) (c : Cand) : (setCand s c).low = s.low := rfl
@[simp] theorem setCand_out (s : State) (c : Cand) : (setCand s c).out = s.out := rfl
@[simp] theorem setCand_host (s : State) (c : Cand) : (setCand s c).host = s.host := rfl

@[simp] theorem setBest_phase (s : State) (f : Orient) (h : Half) (b : Best) : (setBest s f h b).phase = s.phase := rfl
@[simp] theorem setBest_seq (s : State) (f : Orient) (h : Half) (b : Best) : (setBest s f h b).seq = s.seq := rfl
@[simp] theorem setBest_tile (s : State) (f : Orient) (h : Half) (b : Best) : (setBest s f h b).tile = s.tile := rfl
@[simp] theorem setBest_mask (s : State) (f : Orient) (h : Half) (b : Best) : (setBest s f h b).mask = s.mask := rfl
@[simp] theorem setBest_avg (s : State) (f : Orient) (h : Half) (b : Best) : (setBest s f h b).avg = s.avg := rfl
@[simp] theorem setBest_base (s : State) (f : Orient) (h : Half) (b : Best) : (setBest s f h b).base = s.base := rfl
@[simp] theorem setBest_diff (s : State) (f : Orient) (h : Half) (b : Best) : (setBest s f h b).diff = s.diff := rfl
@[simp] theorem setBest_hibase (s : State) (f : Orient) (h : Half) (b : Best) : (setBest s f h b).hibase = s.hibase := rfl
@[simp] theorem setBest_cand (s : State) (f : Orient) (h : Half) (b : Best) : (setBest s f h b).cand = s.cand := rfl
@[simp] theorem setBest_best (s : State) (f : Orient) (h : Half) (b : Best) : (setBest s f h b).best = s.best.set f ((s.best.get f).set h b) := rfl
@[simp] theorem setBest_total (s : State) (f : Orient) (h : Half) (b : Best) : (setBest s f h b).total = s.total := rfl
@[simp] theorem setBest_sel (s : State) (f : Orient) (h : Half) (b : Best) : (setBest s f h b).sel = s.sel := rfl
@[simp] theorem setBest_high (s : State) (f : Orient) (h : Half) (b : Best) : (setBest s f h b).high = s.high := rfl
@[simp] theorem setBest_low (s : State) (f : Orient) (h : Half) (b : Best) : (setBest s f h b).low = s.low := rfl
@[simp] theorem setBest_out (s : State) (f : Orient) (h : Half) (b : Best) : (setBest s f h b).out = s.out := rfl
@[simp] theorem setBest_host (s : State) (f : Orient) (h : Half) (b : Best) : (setBest s f h b).host = s.host := rfl

@[simp] theorem setTotal_phase (s : State) (f : Orient) (n : Score) : (setTotal s f n).phase = s.phase := rfl
@[simp] theorem setTotal_seq (s : State) (f : Orient) (n : Score) : (setTotal s f n).seq = s.seq := rfl
@[simp] theorem setTotal_tile (s : State) (f : Orient) (n : Score) : (setTotal s f n).tile = s.tile := rfl
@[simp] theorem setTotal_mask (s : State) (f : Orient) (n : Score) : (setTotal s f n).mask = s.mask := rfl
@[simp] theorem setTotal_avg (s : State) (f : Orient) (n : Score) : (setTotal s f n).avg = s.avg := rfl
@[simp] theorem setTotal_base (s : State) (f : Orient) (n : Score) : (setTotal s f n).base = s.base := rfl
@[simp] theorem setTotal_diff (s : State) (f : Orient) (n : Score) : (setTotal s f n).diff = s.diff := rfl
@[simp] theorem setTotal_hibase (s : State) (f : Orient) (n : Score) : (setTotal s f n).hibase = s.hibase := rfl
@[simp] theorem setTotal_cand (s : State) (f : Orient) (n : Score) : (setTotal s f n).cand = s.cand := rfl
@[simp] theorem setTotal_best (s : State) (f : Orient) (n : Score) : (setTotal s f n).best = s.best := rfl
@[simp] theorem setTotal_total (s : State) (f : Orient) (n : Score) : (setTotal s f n).total = s.total.set f n := rfl
@[simp] theorem setTotal_sel (s : State) (f : Orient) (n : Score) : (setTotal s f n).sel = s.sel := rfl
@[simp] theorem setTotal_high (s : State) (f : Orient) (n : Score) : (setTotal s f n).high = s.high := rfl
@[simp] theorem setTotal_low (s : State) (f : Orient) (n : Score) : (setTotal s f n).low = s.low := rfl
@[simp] theorem setTotal_out (s : State) (f : Orient) (n : Score) : (setTotal s f n).out = s.out := rfl
@[simp] theorem setTotal_host (s : State) (f : Orient) (n : Score) : (setTotal s f n).host = s.host := rfl

@[simp] theorem setSel_phase (s : State) (f : Orient) : (setSel s f).phase = s.phase := rfl
@[simp] theorem setSel_seq (s : State) (f : Orient) : (setSel s f).seq = s.seq := rfl
@[simp] theorem setSel_tile (s : State) (f : Orient) : (setSel s f).tile = s.tile := rfl
@[simp] theorem setSel_mask (s : State) (f : Orient) : (setSel s f).mask = s.mask := rfl
@[simp] theorem setSel_avg (s : State) (f : Orient) : (setSel s f).avg = s.avg := rfl
@[simp] theorem setSel_base (s : State) (f : Orient) : (setSel s f).base = s.base := rfl
@[simp] theorem setSel_diff (s : State) (f : Orient) : (setSel s f).diff = s.diff := rfl
@[simp] theorem setSel_hibase (s : State) (f : Orient) : (setSel s f).hibase = s.hibase := rfl
@[simp] theorem setSel_cand (s : State) (f : Orient) : (setSel s f).cand = s.cand := rfl
@[simp] theorem setSel_best (s : State) (f : Orient) : (setSel s f).best = s.best := rfl
@[simp] theorem setSel_total (s : State) (f : Orient) : (setSel s f).total = s.total := rfl
@[simp] theorem setSel_sel (s : State) (f : Orient) : (setSel s f).sel = f := rfl
@[simp] theorem setSel_high (s : State) (f : Orient) : (setSel s f).high = s.high := rfl
@[simp] theorem setSel_low (s : State) (f : Orient) : (setSel s f).low = s.low := rfl
@[simp] theorem setSel_out (s : State) (f : Orient) : (setSel s f).out = s.out := rfl
@[simp] theorem setSel_host (s : State) (f : Orient) : (setSel s f).host = s.host := rfl

@[simp] theorem setHigh_phase (s : State) (w : Word32) : (setHigh s w).phase = s.phase := rfl
@[simp] theorem setHigh_seq (s : State) (w : Word32) : (setHigh s w).seq = s.seq := rfl
@[simp] theorem setHigh_tile (s : State) (w : Word32) : (setHigh s w).tile = s.tile := rfl
@[simp] theorem setHigh_mask (s : State) (w : Word32) : (setHigh s w).mask = s.mask := rfl
@[simp] theorem setHigh_avg (s : State) (w : Word32) : (setHigh s w).avg = s.avg := rfl
@[simp] theorem setHigh_base (s : State) (w : Word32) : (setHigh s w).base = s.base := rfl
@[simp] theorem setHigh_diff (s : State) (w : Word32) : (setHigh s w).diff = s.diff := rfl
@[simp] theorem setHigh_hibase (s : State) (w : Word32) : (setHigh s w).hibase = s.hibase := rfl
@[simp] theorem setHigh_cand (s : State) (w : Word32) : (setHigh s w).cand = s.cand := rfl
@[simp] theorem setHigh_best (s : State) (w : Word32) : (setHigh s w).best = s.best := rfl
@[simp] theorem setHigh_total (s : State) (w : Word32) : (setHigh s w).total = s.total := rfl
@[simp] theorem setHigh_sel (s : State) (w : Word32) : (setHigh s w).sel = s.sel := rfl
@[simp] theorem setHigh_high (s : State) (w : Word32) : (setHigh s w).high = w := rfl
@[simp] theorem setHigh_low (s : State) (w : Word32) : (setHigh s w).low = s.low := rfl
@[simp] theorem setHigh_out (s : State) (w : Word32) : (setHigh s w).out = s.out := rfl
@[simp] theorem setHigh_host (s : State) (w : Word32) : (setHigh s w).host = s.host := rfl

@[simp] theorem setLow_phase (s : State) (w : Word32) : (setLow s w).phase = s.phase := rfl
@[simp] theorem setLow_seq (s : State) (w : Word32) : (setLow s w).seq = s.seq := rfl
@[simp] theorem setLow_tile (s : State) (w : Word32) : (setLow s w).tile = s.tile := rfl
@[simp] theorem setLow_mask (s : State) (w : Word32) : (setLow s w).mask = s.mask := rfl
@[simp] theorem setLow_avg (s : State) (w : Word32) : (setLow s w).avg = s.avg := rfl
@[simp] theorem setLow_base (s : State) (w : Word32) : (setLow s w).base = s.base := rfl
@[simp] theorem setLow_diff (s : State) (w : Word32) : (setLow s w).diff = s.diff := rfl
@[simp] theorem setLow_hibase (s : State) (w : Word32) : (setLow s w).hibase = s.hibase := rfl
@[simp] theorem setLow_cand (s : State) (w : Word32) : (setLow s w).cand = s.cand := rfl
@[simp] theorem setLow_best (s : State) (w : Word32) : (setLow s w).best = s.best := rfl
@[simp] theorem setLow_total (s : State) (w : Word32) : (setLow s w).total = s.total := rfl
@[simp] theorem setLow_sel (s : State) (w : Word32) : (setLow s w).sel = s.sel := rfl
@[simp] theorem setLow_high (s : State) (w : Word32) : (setLow s w).high = s.high := rfl
@[simp] theorem setLow_low (s : State) (w : Word32) : (setLow s w).low = w := rfl
@[simp] theorem setLow_out (s : State) (w : Word32) : (setLow s w).out = s.out := rfl
@[simp] theorem setLow_host (s : State) (w : Word32) : (setLow s w).host = s.host := rfl

@[simp] theorem writeOut_phase (s : State) (a : Nat) (bs : List Byte) : (writeOut s a bs).phase = s.phase := rfl
@[simp] theorem writeOut_seq (s : State) (a : Nat) (bs : List Byte) : (writeOut s a bs).seq = s.seq := rfl
@[simp] theorem writeOut_tile (s : State) (a : Nat) (bs : List Byte) : (writeOut s a bs).tile = s.tile := rfl
@[simp] theorem writeOut_mask (s : State) (a : Nat) (bs : List Byte) : (writeOut s a bs).mask = s.mask := rfl
@[simp] theorem writeOut_avg (s : State) (a : Nat) (bs : List Byte) : (writeOut s a bs).avg = s.avg := rfl
@[simp] theorem writeOut_base (s : State) (a : Nat) (bs : List Byte) : (writeOut s a bs).base = s.base := rfl
@[simp] theorem writeOut_diff (s : State) (a : Nat) (bs : List Byte) : (writeOut s a bs).diff = s.diff := rfl
@[simp] theorem writeOut_hibase (s : State) (a : Nat) (bs : List Byte) : (writeOut s a bs).hibase = s.hibase := rfl
@[simp] theorem writeOut_cand (s : State) (a : Nat) (bs : List Byte) : (writeOut s a bs).cand = s.cand := rfl
@[simp] theorem writeOut_best (s : State) (a : Nat) (bs : List Byte) : (writeOut s a bs).best = s.best := rfl
@[simp] theorem writeOut_total (s : State) (a : Nat) (bs : List Byte) : (writeOut s a bs).total = s.total := rfl
@[simp] theorem writeOut_sel (s : State) (a : Nat) (bs : List Byte) : (writeOut s a bs).sel = s.sel := rfl
@[simp] theorem writeOut_high (s : State) (a : Nat) (bs : List Byte) : (writeOut s a bs).high = s.high := rfl
@[simp] theorem writeOut_low (s : State) (a : Nat) (bs : List Byte) : (writeOut s a bs).low = s.low := rfl
@[simp] theorem writeOut_out (s : State) (a : Nat) (bs : List Byte) : (writeOut s a bs).out = Memory.writeBytes s.out a bs := rfl
@[simp] theorem writeOut_host (s : State) (a : Nat) (bs : List Byte) : (writeOut s a bs).host = s.host := rfl

@[simp] theorem setHost_phase (s : State) (x : HostSide) : (setHost s x).phase = s.phase := rfl
@[simp] theorem setHost_seq (s : State) (x : HostSide) : (setHost s x).seq = s.seq := rfl
@[simp] theorem setHost_tile (s : State) (x : HostSide) : (setHost s x).tile = s.tile := rfl
@[simp] theorem setHost_mask (s : State) (x : HostSide) : (setHost s x).mask = s.mask := rfl
@[simp] theorem setHost_avg (s : State) (x : HostSide) : (setHost s x).avg = s.avg := rfl
@[simp] theorem setHost_base (s : State) (x : HostSide) : (setHost s x).base = s.base := rfl
@[simp] theorem setHost_diff (s : State) (x : HostSide) : (setHost s x).diff = s.diff := rfl
@[simp] theorem setHost_hibase (s : State) (x : HostSide) : (setHost s x).hibase = s.hibase := rfl
@[simp] theorem setHost_cand (s : State) (x : HostSide) : (setHost s x).cand = s.cand := rfl
@[simp] theorem setHost_best (s : State) (x : HostSide) : (setHost s x).best = s.best := rfl
@[simp] theorem setHost_total (s : State) (x : HostSide) : (setHost s x).total = s.total := rfl
@[simp] theorem setHost_sel (s : State) (x : HostSide) : (setHost s x).sel = s.sel := rfl
@[simp] theorem setHost_high (s : State) (x : HostSide) : (setHost s x).high = s.high := rfl
@[simp] theorem setHost_low (s : State) (x : HostSide) : (setHost s x).low = s.low := rfl
@[simp] theorem setHost_out (s : State) (x : HostSide) : (setHost s x).out = s.out := rfl
@[simp] theorem setHost_host (s : State) (x : HostSide) : (setHost s x).host = x := rfl

@[simp] theorem getAvg_setPhase (s : State) (p : Phase) (f : Orient) (h : Half) : getAvg (setPhase s p) f h = getAvg s f h := rfl
@[simp] theorem getAvg_setSeq (s : State) (n : BitVec 7) (f : Orient) (h : Half) : getAvg (setSeq s n) f h = getAvg s f h := rfl
@[simp] theorem getAvg_setTile (s : State) (t : Tile) (f : Orient) (h : Half) : getAvg (setTile s t) f h = getAvg s f h := rfl
@[simp] theorem getAvg_setMask (s : State) (m : BitVec 16) (f : Orient) (h : Half) : getAvg (setMask s m) f h = getAvg s f h := rfl
@[simp] theorem getAvg_setBase (s : State) (f₁ : Orient) (c0 c1 : Color) (f : Orient) (h : Half) : getAvg (setBase s f₁ c0 c1) f h = getAvg s f h := rfl
@[simp] theorem getAvg_setDiff (s : State) (f₁ : Orient) (m : Mode) (f : Orient) (h : Half) : getAvg (setDiff s f₁ m) f h = getAvg s f h := rfl
@[simp] theorem getAvg_setHibase (s : State) (f₁ : Orient) (w : Word32) (f : Orient) (h : Half) : getAvg (setHibase s f₁ w) f h = getAvg s f h := rfl
@[simp] theorem getAvg_setCand (s : State) (c : Cand) (f : Orient) (h : Half) : getAvg (setCand s c) f h = getAvg s f h := rfl
@[simp] theorem getAvg_setBest (s : State) (f₁ : Orient) (h₁ : Half) (b : Best) (f : Orient) (h : Half) : getAvg (setBest s f₁ h₁ b) f h = getAvg s f h := rfl
@[simp] theorem getAvg_setTotal (s : State) (f₁ : Orient) (n : Score) (f : Orient) (h : Half) : getAvg (setTotal s f₁ n) f h = getAvg s f h := rfl
@[simp] theorem getAvg_setSel (s : State) (f₁ : Orient) (f : Orient) (h : Half) : getAvg (setSel s f₁) f h = getAvg s f h := rfl
@[simp] theorem getAvg_setHigh (s : State) (w : Word32) (f : Orient) (h : Half) : getAvg (setHigh s w) f h = getAvg s f h := rfl
@[simp] theorem getAvg_setLow (s : State) (w : Word32) (f : Orient) (h : Half) : getAvg (setLow s w) f h = getAvg s f h := rfl
@[simp] theorem getAvg_writeOut (s : State) (a : Nat) (bs : List Byte) (f : Orient) (h : Half) : getAvg (writeOut s a bs) f h = getAvg s f h := rfl
@[simp] theorem getAvg_setHost (s : State) (x : HostSide) (f : Orient) (h : Half) : getAvg (setHost s x) f h = getAvg s f h := rfl

@[simp] theorem getBase_setPhase (s : State) (p : Phase) (f : Orient) (h : Half) : getBase (setPhase s p) f h = getBase s f h := rfl
@[simp] theorem getBase_setSeq (s : State) (n : BitVec 7) (f : Orient) (h : Half) : getBase (setSeq s n) f h = getBase s f h := rfl
@[simp] theorem getBase_setTile (s : State) (t : Tile) (f : Orient) (h : Half) : getBase (setTile s t) f h = getBase s f h := rfl
@[simp] theorem getBase_setMask (s : State) (m : BitVec 16) (f : Orient) (h : Half) : getBase (setMask s m) f h = getBase s f h := rfl
@[simp] theorem getBase_setAvg (s : State) (f₁ : Orient) (h₁ : Half) (c : Color) (f : Orient) (h : Half) : getBase (setAvg s f₁ h₁ c) f h = getBase s f h := rfl
@[simp] theorem getBase_setDiff (s : State) (f₁ : Orient) (m : Mode) (f : Orient) (h : Half) : getBase (setDiff s f₁ m) f h = getBase s f h := rfl
@[simp] theorem getBase_setHibase (s : State) (f₁ : Orient) (w : Word32) (f : Orient) (h : Half) : getBase (setHibase s f₁ w) f h = getBase s f h := rfl
@[simp] theorem getBase_setCand (s : State) (c : Cand) (f : Orient) (h : Half) : getBase (setCand s c) f h = getBase s f h := rfl
@[simp] theorem getBase_setBest (s : State) (f₁ : Orient) (h₁ : Half) (b : Best) (f : Orient) (h : Half) : getBase (setBest s f₁ h₁ b) f h = getBase s f h := rfl
@[simp] theorem getBase_setTotal (s : State) (f₁ : Orient) (n : Score) (f : Orient) (h : Half) : getBase (setTotal s f₁ n) f h = getBase s f h := rfl
@[simp] theorem getBase_setSel (s : State) (f₁ : Orient) (f : Orient) (h : Half) : getBase (setSel s f₁) f h = getBase s f h := rfl
@[simp] theorem getBase_setHigh (s : State) (w : Word32) (f : Orient) (h : Half) : getBase (setHigh s w) f h = getBase s f h := rfl
@[simp] theorem getBase_setLow (s : State) (w : Word32) (f : Orient) (h : Half) : getBase (setLow s w) f h = getBase s f h := rfl
@[simp] theorem getBase_writeOut (s : State) (a : Nat) (bs : List Byte) (f : Orient) (h : Half) : getBase (writeOut s a bs) f h = getBase s f h := rfl
@[simp] theorem getBase_setHost (s : State) (x : HostSide) (f : Orient) (h : Half) : getBase (setHost s x) f h = getBase s f h := rfl

@[simp] theorem getBest_setPhase (s : State) (p : Phase) (f : Orient) (h : Half) : getBest (setPhase s p) f h = getBest s f h := rfl
@[simp] theorem getBest_setSeq (s : State) (n : BitVec 7) (f : Orient) (h : Half) : getBest (setSeq s n) f h = getBest s f h := rfl
@[simp] theorem getBest_setTile (s : State) (t : Tile) (f : Orient) (h : Half) : getBest (setTile s t) f h = getBest s f h := rfl
@[simp] theorem getBest_setMask (s : State) (m : BitVec 16) (f : Orient) (h : Half) : getBest (setMask s m) f h = getBest s f h := rfl
@[simp] theorem getBest_setAvg (s : State) (f₁ : Orient) (h₁ : Half) (c : Color) (f : Orient) (h : Half) : getBest (setAvg s f₁ h₁ c) f h = getBest s f h := rfl
@[simp] theorem getBest_setBase (s : State) (f₁ : Orient) (c0 c1 : Color) (f : Orient) (h : Half) : getBest (setBase s f₁ c0 c1) f h = getBest s f h := rfl
@[simp] theorem getBest_setDiff (s : State) (f₁ : Orient) (m : Mode) (f : Orient) (h : Half) : getBest (setDiff s f₁ m) f h = getBest s f h := rfl
@[simp] theorem getBest_setHibase (s : State) (f₁ : Orient) (w : Word32) (f : Orient) (h : Half) : getBest (setHibase s f₁ w) f h = getBest s f h := rfl
@[simp] theorem getBest_setCand (s : State) (c : Cand) (f : Orient) (h : Half) : getBest (setCand s c) f h = getBest s f h := rfl
@[simp] theorem getBest_setTotal (s : State) (f₁ : Orient) (n : Score) (f : Orient) (h : Half) : getBest (setTotal s f₁ n) f h = getBest s f h := rfl
@[simp] theorem getBest_setSel (s : State) (f₁ : Orient) (f : Orient) (h : Half) : getBest (setSel s f₁) f h = getBest s f h := rfl
@[simp] theorem getBest_setHigh (s : State) (w : Word32) (f : Orient) (h : Half) : getBest (setHigh s w) f h = getBest s f h := rfl
@[simp] theorem getBest_setLow (s : State) (w : Word32) (f : Orient) (h : Half) : getBest (setLow s w) f h = getBest s f h := rfl
@[simp] theorem getBest_writeOut (s : State) (a : Nat) (bs : List Byte) (f : Orient) (h : Half) : getBest (writeOut s a bs) f h = getBest s f h := rfl
@[simp] theorem getBest_setHost (s : State) (x : HostSide) (f : Orient) (h : Half) : getBest (setHost s x) f h = getBest s f h := rfl

@[simp] theorem getAvg_setAvg (s : State) (f f' : Orient) (h h' : Half) (c : Color) :
    getAvg (setAvg s f h c) f' h' = if f' = f ∧ h' = h then c else getAvg s f' h' := by
  cases f <;> cases f' <;> cases h <;> cases h' <;> rfl

@[simp] theorem getBest_setBest (s : State) (f f' : Orient) (h h' : Half) (b : Best) :
    getBest (setBest s f h b) f' h' = if f' = f ∧ h' = h then b else getBest s f' h' := by
  cases f <;> cases f' <;> cases h <;> cases h' <;> rfl

@[simp] theorem getBase_setBase (s : State) (f f' : Orient) (h' : Half) (c0 c1 : Color) :
    getBase (setBase s f c0 c1) f' h' = if f' = f then (ByHalf.mk c0 c1).get h' else getBase s f' h' := by
  cases f <;> cases f' <;> cases h' <;> rfl

@[simp] theorem nextDrive_eq_setHost (s : State) :
    nextDrive s = setHost s ⟨s.host.script.tail, s.host.received⟩ := rfl

end Sys2Proof.Machine
end

