-- ==== Sys2Proof/Laws/Exec.lean ====
section
/-! SUPPORT. What `exec` does with each constructor, that the default table makes the configured block the machine (R60),
and one inversion lemma, over any modifier table and for `exec`. -/

namespace Sys2Proof.Machine

theorem exec_avg (f : Orient) (h : Half) (s : State) :
    exec (.avg f h) s = .next (setAvg s f h (averageHalf (readPixel s.tile) s.mask f h)) := rfl

theorem exec_qbase (f : Orient) (s : State) :
    exec (.qbase f) s = .next
      (setHibase (setBase (setDiff s f (chooseMode (getAvg s f .h0) (getAvg s f .h1))) f
        (baseFirst (getAvg s f .h0) (getAvg s f .h1)) (baseSecond (getAvg s f .h0) (getAvg s f .h1))) f
        (hibaseOf (getAvg s f .h0) (getAvg s f .h1))) := rfl

theorem exec_msearch (f : Orient) (h : Half) (t : BitVec 3) (s : State) :
    exec (.msearch f h t) s = .next (msearchWith modTab f h t s) := rfl

theorem exec_tbest (f : Orient) (h : Half) (t : BitVec 3) (s : State) :
    exec (.tbest f h t) s =
      .next (if t = 0 ∨ s.cand.score < (getBest s f h).score then setBest s f h ⟨t, s.cand.score, s.cand.low⟩ else s) := by
  simp only [exec, execTbest]
  split <;> rfl

theorem exec_selori (s : State) :
    exec .selori s = .next
      (setSel (setTotal (setTotal s .f0 (totalOf s .f0)) .f1 (totalOf s .f1)) (betterOrient (totalOf s .f0) (totalOf s .f1))) :=
  rfl

theorem exec_pack (s : State) :
    exec .pack s = .next
      (setLow
        (setHigh s (packHigh (s.hibase.get s.sel) (getBest s s.sel .h0).table (getBest s s.sel .h1).table s.sel))
        ((getBest s s.sel .h0).low ||| (getBest s s.sel .h1).low)) := rfl

theorem exec_ser (s : State) :
    exec .ser s = .next (writeOut (writeOut s 0 (wordBytes s.high)) 4 (wordBytes s.low)) := rfl

theorem exec_blkIndiv (b : IndivBlock) (s : State) : exec (.blkIndiv b) s = .refused (.outputFormat "BLK.INDIV") := rfl

theorem exec_blkDiff (b : DiffBlock) (s : State) : exec (.blkDiff b) s = .refused (.outputFormat "BLK.DIFF") := rfl

/-- With the default table the configured dispatch is `exec` (R60). -/
theorem execWith_modTab : execWith modTab = exec := by
  funext i s
  cases i <;> rfl

theorem stepFor_modTab : stepFor modTab = step := by
  funext s
  simp [stepFor, step, execWith_modTab]

theorem coreFor_modTab : coreFor modTab = core := by
  simp [coreFor, core, stepFor_modTab]

theorem execWith_msearch (tab : Config.ModTab) (f : Orient) (h : Half) (t : BitVec 3) (s : State) :
    execWith tab (.msearch f h t) s = .next (msearchWith tab f h t s) := rfl

/-- Everything the dispatch under a modifier table can do when it answers a next state. -/
theorem execWith_next_cases {tab : Config.ModTab} {i : Instr} {s t : State} (hx : execWith tab i s = .next t) :
    (∃ f h, i = .avg f h ∧ t = setAvg s f h (averageHalf (readPixel s.tile) s.mask f h)) ∨
    (∃ f, i = .qbase f ∧ t = setHibase (setBase (setDiff s f (chooseMode (getAvg s f .h0) (getAvg s f .h1))) f
        (baseFirst (getAvg s f .h0) (getAvg s f .h1)) (baseSecond (getAvg s f .h0) (getAvg s f .h1))) f
        (hibaseOf (getAvg s f .h0) (getAvg s f .h1))) ∨
    (∃ f h n, i = .msearch f h n ∧ t = msearchWith tab f h n s) ∨
    (∃ f h n, i = .tbest f h n ∧ (n = 0 ∨ s.cand.score < (getBest s f h).score) ∧
      t = setBest s f h ⟨n, s.cand.score, s.cand.low⟩) ∨
    (∃ f h n, i = .tbest f h n ∧ ¬(n = 0 ∨ s.cand.score < (getBest s f h).score) ∧ t = s) ∨
    (i = .selori ∧ t = setSel (setTotal (setTotal s .f0 (totalOf s .f0)) .f1 (totalOf s .f1))
      (betterOrient (totalOf s .f0) (totalOf s .f1))) ∨
    (i = .pack ∧ t = setLow
        (setHigh s (packHigh (s.hibase.get s.sel) (getBest s s.sel .h0).table (getBest s s.sel .h1).table s.sel))
        ((getBest s s.sel .h0).low ||| (getBest s s.sel .h1).low)) ∨
    (i = .ser ∧ t = writeOut (writeOut s 0 (wordBytes s.high)) 4 (wordBytes s.low)) := by
  cases i with
  | avg f h => cases hx; exact .inl ⟨f, h, rfl, rfl⟩
  | qbase f => cases hx; exact .inr (.inl ⟨f, rfl, rfl⟩)
  | msearch f h n => cases hx; exact .inr (.inr (.inl ⟨f, h, n, rfl, rfl⟩))
  | tbest f h n =>
    change exec (.tbest f h n) s = .next t at hx
    rw [exec_tbest] at hx
    cases hx
    split
    · exact .inr (.inr (.inr (.inl ⟨f, h, n, rfl, ‹_›, rfl⟩)))
    · exact .inr (.inr (.inr (.inr (.inl ⟨f, h, n, rfl, ‹_›, rfl⟩))))
  | selori => cases hx; exact .inr (.inr (.inr (.inr (.inr (.inl ⟨rfl, rfl⟩)))))
  | pack => cases hx; exact .inr (.inr (.inr (.inr (.inr (.inr (.inl ⟨rfl, rfl⟩))))))
  | ser => cases hx; exact .inr (.inr (.inr (.inr (.inr (.inr (.inr ⟨rfl, rfl⟩))))))
  | blkIndiv b => cases hx
  | blkDiff b => cases hx

/-- Everything `exec` can do when it answers a next state. -/
theorem exec_next_cases {i : Instr} {s t : State} (hx : exec i s = .next t) :
    (∃ f h, i = .avg f h ∧ t = setAvg s f h (averageHalf (readPixel s.tile) s.mask f h)) ∨
    (∃ f, i = .qbase f ∧ t = setHibase (setBase (setDiff s f (chooseMode (getAvg s f .h0) (getAvg s f .h1))) f
        (baseFirst (getAvg s f .h0) (getAvg s f .h1)) (baseSecond (getAvg s f .h0) (getAvg s f .h1))) f
        (hibaseOf (getAvg s f .h0) (getAvg s f .h1))) ∨
    (∃ f h n, i = .msearch f h n ∧ t = msearchWith modTab f h n s) ∨
    (∃ f h n, i = .tbest f h n ∧ (n = 0 ∨ s.cand.score < (getBest s f h).score) ∧
      t = setBest s f h ⟨n, s.cand.score, s.cand.low⟩) ∨
    (∃ f h n, i = .tbest f h n ∧ ¬(n = 0 ∨ s.cand.score < (getBest s f h).score) ∧ t = s) ∨
    (i = .selori ∧ t = setSel (setTotal (setTotal s .f0 (totalOf s .f0)) .f1 (totalOf s .f1))
      (betterOrient (totalOf s .f0) (totalOf s .f1))) ∨
    (i = .pack ∧ t = setLow
        (setHigh s (packHigh (s.hibase.get s.sel) (getBest s s.sel .h0).table (getBest s s.sel .h1).table s.sel))
        ((getBest s s.sel .h0).low ||| (getBest s s.sel .h1).low)) ∨
    (i = .ser ∧ t = writeOut (writeOut s 0 (wordBytes s.high)) 4 (wordBytes s.low)) :=
  execWith_next_cases (tab := modTab) (by rw [execWith_modTab]; exact hx)

end Sys2Proof.Machine
end

