-- ==== Sys2Proof/Laws/Geometry.lean ====
section
/-! SUPPORT. The geometry of the halves (R45), the valid pixels and their bit positions (R43). -/

namespace Sys2Proof.Machine

/-- Membership in a half, by the pixel's column or row (R45). -/
theorem mem_half (f : Orient) (h : Half) (p : Pixel) :
    p ∈ half f h ↔
      match f, h with
      | .f0, .h0 => p.x.val < 2
      | .f0, .h1 => 2 ≤ p.x.val
      | .f1, .h0 => p.y.val < 2
      | .f1, .h1 => 2 ≤ p.y.val := by
  obtain ⟨x, y⟩ := p
  cases f <;> cases h <;> revert x y <;> decide

theorem length_half (f : Orient) (h : Half) : (half f h).length = 8 := by
  cases f <;> cases h <;> rfl

theorem nodup_half (f : Orient) (h : Half) : (half f h).Nodup := by
  cases f <;> cases h <;> decide

theorem mem_validPixels {mask : BitVec 16} {f : Orient} {h : Half} {p : Pixel} :
    p ∈ validPixels mask f h ↔ p ∈ half f h ∧ valid mask p = true := List.mem_filter

theorem length_validPixels_le (mask : BitVec 16) (f : Orient) (h : Half) : (validPixels mask f h).length ≤ 8 :=
  (List.length_filter_le _ _).trans (length_half f h).le

theorem nodup_validPixels (mask : BitVec 16) (f : Orient) (h : Half) : (validPixels mask f h).Nodup :=
  (nodup_half f h).filter _

@[simp] theorem validPixels_zero (f : Orient) (h : Half) : validPixels 0#16 f h = [] := by
  simp [validPixels, List.filter_eq_nil_iff, valid]

theorem pixelNumber_lt (p : Pixel) : pixelNumber p < 16 := by
  have := p.x.isLt; have := p.y.isLt; simp only [pixelNumber]; omega

theorem pixelPos_lt (p : Pixel) : pixelPos p < 16 := by
  have := p.x.isLt; have := p.y.isLt; simp only [pixelPos]; omega

/-- A bit position belongs to one pixel. -/
theorem pixelPos_injective {p q : Pixel} (h : pixelPos p = pixelPos q) : p = q := by
  obtain ⟨⟨x, hx⟩, ⟨y, hy⟩⟩ := p
  obtain ⟨⟨x', hx'⟩, ⟨y', hy'⟩⟩ := q
  simp only [pixelPos] at h
  have h1 : x = x' := by omega
  have h2 : y = y' := by omega
  subst h1; subst h2; rfl

end Sys2Proof.Machine
end

