-- ==== Sys2Proof/Laws/Memory.lean ====
section
/-! SUPPORT. The laws of a buffer: a read after a write gives what was written, a write leaves every other address
alone, and every operation keeps the canonical form. -/

namespace Sys2Proof.Machine

@[simp] theorem read_nil (a : Nat) : Memory.read [] a = Config.unlistedByte := rfl

theorem read_cons (b : Nat) (v : Byte) (m : Memory) (a : Nat) :
    Memory.read ((b, v) :: m) a = if b = a then v else Memory.read m a := rfl

/-- Erasing an address makes it read as unlisted and leaves the others. -/
theorem read_erase (m : Memory) (a b : Nat) :
    Memory.read (Memory.erase m a) b = if b = a then Config.unlistedByte else Memory.read m b := by
  induction m with
  | nil => simp [Memory.erase]
  | cons c m ih =>
    obtain ⟨x, v⟩ := c
    simp only [Memory.erase, List.filter_cons] at ih ⊢
    by_cases hx : x = a
    · subst hx
      by_cases hb : b = x
      · simp_all
      · simp_all [read_cons, Ne.symm hb]
    · by_cases hb : b = a
      · subst hb; simp_all [read_cons]
      · simp_all [read_cons]

/-- Inserting an entry for an address the list does not hold. -/
theorem read_insert (m : Memory) (a b : Nat) (v : Byte) (h : ∀ c ∈ m, c.1 ≠ a) :
    Memory.read (Memory.insert a v m) b = if b = a then v else Memory.read m b := by
  induction m with
  | nil => simp [Memory.insert, read_cons, eq_comm]
  | cons c m ih =>
    obtain ⟨x, w⟩ := c
    have hx : x ≠ a := h (x, w) (by simp)
    simp only [Memory.insert]
    split
    · simp [read_cons, eq_comm]
    · rw [read_cons, ih fun c hc => h c (by simp [hc]), read_cons]
      by_cases hb : b = a
      · subst hb; simp [hx]
      · simp [hb]

theorem not_mem_erase (m : Memory) (a : Nat) : ∀ c ∈ Memory.erase m a, c.1 ≠ a := by
  intro c hc
  simpa [Memory.erase] using (List.mem_filter.mp hc).2

/-- A read after a write: the byte written at its address, every other byte as before. -/
theorem read_write (m : Memory) (a b : Nat) (v : Byte) :
    Memory.read (Memory.write m a v) b = if b = a then v else Memory.read m b := by
  unfold Memory.write
  split
  · subst_vars; exact read_erase m a b
  · rw [read_insert _ _ _ _ (not_mem_erase m a), read_erase]; split <;> simp_all

/-- A read after a write of several bytes: the bytes written at their addresses, every other byte as before. -/
theorem read_writeBytes (m : Memory) (a b : Nat) (vs : List Byte) :
    Memory.read (Memory.writeBytes m a vs) b =
      if a ≤ b ∧ b < a + vs.length then vs.getD (b - a) 0 else Memory.read m b := by
  induction vs generalizing m a with
  | nil => simp [Memory.writeBytes]
  | cons v vs ih =>
    rw [Memory.writeBytes, ih, read_write]
    by_cases h1 : b = a
    · subst h1; simp
    · by_cases h2 : a + 1 ≤ b ∧ b < a + 1 + vs.length
      · rw [if_pos h2, if_pos (by simp; omega)]
        obtain ⟨k, hk⟩ : ∃ k, b - a = k + 1 := ⟨b - a - 1, by omega⟩
        rw [hk, List.getD_cons_succ]; congr 1; omega
      · rw [if_neg h2, if_neg h1, if_neg (by simp; omega)]

theorem length_readBytes (m : Memory) (a n : Nat) : (Memory.readBytes m a n).length = n := by
  induction n generalizing a with
  | zero => rfl
  | succ n ih => simp [Memory.readBytes, ih]

theorem wfFrom_mono {lo lo' hi : Nat} {m : Memory} (h : Memory.wfFrom lo hi m = true) (hl : lo' ≤ lo) :
    Memory.wfFrom lo' hi m = true := by
  cases m with
  | nil => rfl
  | cons c m =>
    simp only [Memory.wfFrom, Bool.and_eq_true, decide_eq_true_eq] at h ⊢
    exact ⟨⟨⟨by omega, h.1.1.2⟩, h.1.2⟩, h.2⟩

theorem wfFrom_erase {lo hi : Nat} {m : Memory} (a : Nat) (h : Memory.wfFrom lo hi m = true) :
    Memory.wfFrom lo hi (Memory.erase m a) = true := by
  induction m generalizing lo with
  | nil => rfl
  | cons c m ih =>
    obtain ⟨x, v⟩ := c
    simp only [Memory.wfFrom, Bool.and_eq_true, decide_eq_true_eq] at h
    have hm := ih h.2
    simp only [Memory.erase, List.filter_cons] at hm ⊢
    split
    · simp only [Memory.wfFrom, Bool.and_eq_true, decide_eq_true_eq]
      exact ⟨⟨⟨h.1.1.1, h.1.1.2⟩, h.1.2⟩, hm⟩
    · exact wfFrom_mono hm (by omega)

theorem wfFrom_insert {lo hi a : Nat} {v : Byte} {m : Memory} (h : Memory.wfFrom lo hi m = true)
    (hm : ∀ c ∈ m, c.1 ≠ a) (hlo : lo ≤ a) (hhi : a < hi) (hv : v ≠ Config.unlistedByte) :
    Memory.wfFrom lo hi (Memory.insert a v m) = true := by
  induction m generalizing lo with
  | nil => simpa [Memory.insert, Memory.wfFrom, hlo, hhi] using hv
  | cons c m ih =>
    obtain ⟨x, w⟩ := c
    have hx : x ≠ a := hm (x, w) (by simp)
    simp only [Memory.wfFrom, Bool.and_eq_true, decide_eq_true_eq] at h
    simp only [Memory.insert]
    split
    · simp only [Memory.wfFrom, Bool.and_eq_true, decide_eq_true_eq]
      exact ⟨⟨⟨hlo, hhi⟩, hv⟩, ⟨⟨by omega, h.1.1.2⟩, h.1.2⟩, h.2⟩
    · simp only [Memory.wfFrom, Bool.and_eq_true, decide_eq_true_eq]
      exact ⟨h.1, ih h.2 (fun c hc => hm c (by simp [hc])) (by omega)⟩

/-- A write inside the address space keeps the canonical form. -/
theorem wf_write {size a : Nat} {v : Byte} {m : Memory} (h : Memory.wf size m = true) (ha : a < size) :
    Memory.wf size (Memory.write m a v) = true := by
  unfold Memory.write
  split
  · exact wfFrom_erase a h
  · exact wfFrom_insert (wfFrom_erase a h) (not_mem_erase m a) (Nat.zero_le a) ha ‹_›

/-- A write of several bytes inside the address space keeps the canonical form. -/
theorem wf_writeBytes {size a : Nat} {vs : List Byte} {m : Memory} (h : Memory.wf size m = true)
    (ha : a + vs.length ≤ size) : Memory.wf size (Memory.writeBytes m a vs) = true := by
  induction vs generalizing m a with
  | nil => exact h
  | cons v vs ih =>
    simp only [List.length_cons] at ha
    exact ih (wf_write h (by omega)) (by omega)

/-- Canonical buffers that read alike at every address are the same list. -/
theorem eq_of_read_eq {lo hi : Nat} {m n : Memory} (hm : Memory.wfFrom lo hi m = true)
    (hn : Memory.wfFrom lo hi n = true) (h : ∀ a, Memory.read m a = Memory.read n a) : m = n := by
  have low : ∀ {k : Memory} {l : Nat} {a : Nat}, Memory.wfFrom l hi k = true → a < l →
      Memory.read k a = Config.unlistedByte := by
    intro k
    induction k with
    | nil => intros; rfl
    | cons c k ih =>
      intro l a hk hl
      obtain ⟨x, v⟩ := c
      simp only [Memory.wfFrom, Bool.and_eq_true, decide_eq_true_eq] at hk
      rw [read_cons, if_neg (by omega)]
      exact ih hk.2 (by omega)
  induction m generalizing lo n with
  | nil =>
    cases n with
    | nil => rfl
    | cons c n =>
      simp only [Memory.wfFrom, Bool.and_eq_true, decide_eq_true_eq] at hn
      have := h c.1
      rw [read_cons, if_pos rfl] at this
      exact absurd this.symm hn.1.2
  | cons c m ih =>
    obtain ⟨x, v⟩ := c
    simp only [Memory.wfFrom, Bool.and_eq_true, decide_eq_true_eq] at hm
    cases n with
    | nil =>
      have := h x
      rw [read_cons, if_pos rfl] at this
      exact absurd this hm.1.2
    | cons d n =>
      obtain ⟨y, w⟩ := d
      simp only [Memory.wfFrom, Bool.and_eq_true, decide_eq_true_eq] at hn
      have hx := h x
      have hy := h y
      simp only [read_cons, if_true] at hx hy
      rcases Nat.lt_trichotomy x y with hlt | heq | hgt
      · rw [if_neg (by omega), low hn.2 (by omega)] at hx
        exact absurd hx hm.1.2
      · subst heq
        simp only [if_true] at hx
        subst hx
        refine congrArg _ (ih hm.2 hn.2 fun a => ?_)
        by_cases ha : a = x
        · subst ha; rw [low hm.2 (by omega), low hn.2 (by omega)]
        · have := h a
          simpa only [read_cons, if_neg (Ne.symm ha)] using this
      · rw [if_neg (by omega), low hm.2 (by omega)] at hy
        exact absurd hy.symm hn.1.2

/-- The pixel of a buffer that a tile was written to is the pixel of the tile (R24, R97). -/
theorem readPixel_writeBytes (m : Memory) (t : Tile) :
    readPixel (Memory.writeBytes m 0 t.toList) = tilePixel t := by
  funext p
  have hx := p.x.isLt
  have hy := p.y.isLt
  have hl : t.toList.length = 48 := by simp [Config.tileBytes]
  simp only [readPixel, tilePixel, read_writeBytes, hl, Nat.zero_le, true_and, Nat.sub_zero, pixelNumber]
  rw [if_pos (by omega), if_pos (by omega), if_pos (by omega)]

end Sys2Proof.Machine
end

