-- ==== Sys2Proof/Laws/PerInstr.lean ====
section
/-! SUPPORT. The family `WordShape`: every micro-operation is one control word whose `op` field is not the reserved 000,
and every output block is eight bytes (R34, R36, R37, R26). -/

namespace Sys2Proof.Laws.WordShape

open Sys2Proof

/-- The shape of an instruction's encoding. -/
def Statement (i : Instr) : Prop :=
  (i.WellFormed → ∃ w, encode i = [w] ∧ opField w ≠ 0) ∧ (¬ i.WellFormed → (encode i).length = 8)

theorem avg (f : Orient) (h : Half) : Statement (.avg f h) :=
  ⟨fun _ => ⟨_, rfl, by cases f <;> cases h <;> decide⟩, fun hn => absurd rfl hn⟩

theorem qbase (f : Orient) : Statement (.qbase f) :=
  ⟨fun _ => ⟨_, rfl, by cases f <;> decide⟩, fun hn => absurd rfl hn⟩

theorem msearch (f : Orient) (h : Half) (t : BitVec 3) : Statement (.msearch f h t) :=
  ⟨fun _ => ⟨_, rfl, by cases f <;> cases h <;> revert t <;> decide⟩, fun hn => absurd rfl hn⟩

theorem tbest (f : Orient) (h : Half) (t : BitVec 3) : Statement (.tbest f h t) :=
  ⟨fun _ => ⟨_, rfl, by cases f <;> cases h <;> revert t <;> decide⟩, fun hn => absurd rfl hn⟩

theorem selori : Statement .selori := ⟨fun _ => ⟨_, rfl, by decide⟩, fun hn => absurd rfl hn⟩

theorem pack : Statement .pack := ⟨fun _ => ⟨_, rfl, by decide⟩, fun hn => absurd rfl hn⟩

theorem ser : Statement .ser := ⟨fun _ => ⟨_, rfl, by decide⟩, fun hn => absurd rfl hn⟩

theorem blkIndiv (b : IndivBlock) : Statement (.blkIndiv b) :=
  ⟨fun hw => absurd hw Bool.false_ne_true, fun _ => rfl⟩

theorem blkDiff (b : DiffBlock) : Statement (.blkDiff b) :=
  ⟨fun hw => absurd hw Bool.false_ne_true, fun _ => rfl⟩

end Sys2Proof.Laws.WordShape
end

