-- ==== Sys2Proof/Laws/Search.lean ====
section
/-! SUPPORT. The bounds of the search (R64, R68), the search over no valid pixel (R70) and the least table (R74). -/

namespace Sys2Proof.Machine

theorem sqDiff_le (q p : Byte) : sqDiff q p ≤ 65025 := by
  unfold sqDiff
  have hq := q.isLt
  have hp := p.isLt
  calc ((q.toNat : Int) - p.toNat).natAbs ^ 2 ≤ 255 ^ 2 := Nat.pow_le_pow_left (by omega) 2
    _ = 65025 := by norm_num

/-- An error is at most 650250 (R64). -/
theorem entryError_le (row : BitVec 2 → Int) (b p : Color) (k : BitVec 2) : entryError row b p k ≤ 650250 := by
  unfold entryError pixelError
  have hr := sqDiff_le (decodedColor b (row k)).r p.r
  have hg := sqDiff_le (decodedColor b (row k)).g p.g
  have hb := sqDiff_le (decodedColor b (row k)).b p.b
  omega

theorem scanStep_le {e : BitVec 2 → Nat} {best : BitVec 2 × Nat} (k : BitVec 2) : (scanStep e best k).2 ≤ best.2 := by
  unfold scanStep
  split <;> omega

/-- The error of the best entry is at most that of entry 0, so at most 650250. -/
theorem pixBest_error_le (row : BitVec 2 → Int) (b p : Color) : (pixBest row b p).2 ≤ 650250 :=
  ((scanStep_le 3).trans ((scanStep_le 2).trans (scanStep_le 1))).trans (entryError_le row b p 0)

/-- The bound of R68 on the score of a half, under any table row. -/
theorem searchScore_le (row : BitVec 2 → Int) (px : Pixel → Color) (mask : BitVec 16) (f : Orient) (h : Half)
    (base : Color) : searchScore row px mask f h base ≤ 5202000 := by
  unfold searchScore
  calc ((validPixels mask f h).map fun p => (pixBest row base (px p)).2).sum
      ≤ ((validPixels mask f h).map fun p => (pixBest row base (px p)).2).length * 650250 := by
        refine List.sum_le_card_nsmul _ _ fun e he => ?_
        obtain ⟨p, -, rfl⟩ := List.mem_map.mp he
        exact pixBest_error_le row base (px p)
    _ ≤ 8 * 650250 := by
        rw [List.length_map]
        exact Nat.mul_le_mul_right _ (length_validPixels_le mask f h)

/-- Every score narrows to the 24-bit register without loss (R68). -/
theorem toNat_searchScore (row : BitVec 2 → Int) (px : Pixel → Color) (mask : BitVec 16) (f : Orient) (h : Half)
    (base : Color) : (BitVec.ofNat 24 (searchScore row px mask f h base)).toNat = searchScore row px mask f h base := by
  have := searchScore_le row px mask f h base
  rw [BitVec.toNat_ofNat]
  omega

@[simp] theorem searchScore_zero (row : BitVec 2 → Int) (px : Pixel → Color) (f : Orient) (h : Half) (base : Color) :
    searchScore row px 0#16 f h base = 0 := by
  simp [searchScore]

@[simp] theorem searchLow_zero (row : BitVec 2 → Int) (px : Pixel → Color) (f : Orient) (h : Half) (base : Color) :
    searchLow row px 0#16 f h base = 0 := by
  simp [searchLow]

theorem mem_allTables (t : BitVec 3) : t ∈ allTables := by
  revert t
  decide

/-- A table number that is a least one of least score is the one `leastTable` answers (R74). -/
theorem leastTable_eq {score : BitVec 3 → Nat} {t : BitVec 3} (hle : ∀ u, score t ≤ score u)
    (hfirst : ∀ u, score u = score t → t.toNat ≤ u.toNat) : leastTable score = t := by
  have hall : ∀ u, (allTables.all fun v => decide (score u ≤ score v)) = true ↔ score u = score t := by
    intro u
    simp only [List.all_eq_true, decide_eq_true_eq]
    exact ⟨fun hu => Nat.le_antisymm (hu t (mem_allTables t)) (hle u), fun hu v _ => hu ▸ hle v⟩
  unfold leastTable
  cases hf : allTables.find? fun u => allTables.all fun v => decide (score u ≤ score v) with
  | none => exact absurd ((hall t).mpr rfl) (by simpa using List.find?_eq_none.mp hf t (mem_allTables t))
  | some u =>
    obtain ⟨hu, as, bs, hsplit, hbefore⟩ := List.find?_eq_some_iff_append.mp hf
    have hut := hfirst u ((hall u).mp hu)
    have hmem : t ∈ as ++ u :: bs := hsplit ▸ mem_allTables t
    rcases List.mem_append.mp hmem with ht | ht
    · exact absurd ((hall t).mpr rfl) (by simpa using hbefore t ht)
    · rcases List.mem_cons.mp ht with rfl | ht
      · rfl
      · have hsorted : (allTables.map BitVec.toNat).Pairwise (· < ·) := by decide
        rw [hsplit] at hsorted
        have : (u :: bs).map BitVec.toNat |>.Pairwise (· < ·) :=
          hsorted.sublist (List.Sublist.map _ (List.sublist_append_right as _))
        have := List.rel_of_pairwise_cons this (List.mem_map_of_mem ht)
        omega

end Sys2Proof.Machine
end

