-- ==== Sys2Proof/Laws/Step.lean ====
section
/-! SUPPORT. Everything a step can do, said once. -/

namespace Sys2Proof.Machine

/-- The sequencer's step over any dispatch and ROM, when it answers a next state (R90). -/
theorem sequencerStep_next {dispatch : Dispatcher} {rom : List Byte} {s t : State}
    (hs : sequencerStep dispatch rom s = .next t) :
    ∃ w i u, rom[s.seq.toNat]? = some w ∧ decode [w] = .instr i ∧ dispatch i s = .next u ∧ t = nextDrive (advance u) := by
  unfold sequencerStep at hs
  split at hs
  · cases hs
  · rename_i w hw
    split at hs
    · rename_i i hi
      generalize hx : dispatch i s = o at hs
      cases o with
      | next u => cases hs; exact ⟨w, i, u, hw, hi, hx, rfl⟩
      | fault r => cases hs
      | refused r => cases hs
    · cases hs

/-- Everything a step of the block with its host can do, over any dispatch and ROM, when it answers a next state. -/
theorem stepWith_next_cases {dispatch : Dispatcher} {rom : List Byte} {s t : State}
    (hs : stepWith dispatch rom s = .next t) :
    ((currentDrive s).reset = true ∧ t = nextDrive (hostReset s)) ∨
    ((currentDrive s).reset = false ∧
      ((s.phase = .idle ∧ ∃ o, (currentDrive s).offer = some o ∧ t = nextDrive (hostStart o s)) ∨
       (s.phase = .idle ∧ (currentDrive s).offer = none ∧ t = nextDrive s) ∨
       (s.phase = .done ∧ (currentDrive s).outReady = true ∧ t = nextDrive (hostTake s)) ∨
       (s.phase = .done ∧ (currentDrive s).outReady = false ∧ t = nextDrive s) ∨
       (s.phase = .run ∧ ∃ w i u, rom[s.seq.toNat]? = some w ∧ decode [w] = .instr i ∧
          dispatch i s = .next u ∧ t = nextDrive (advance u)))) := by
  unfold stepWith at hs
  split at hs
  · rename_i hr; cases hs; exact .inl ⟨hr, rfl⟩
  · rename_i hr
    refine .inr ⟨by simpa using hr, ?_⟩
    split at hs
    · rename_i hp
      split at hs
      · rename_i o ho; cases hs; exact .inl ⟨hp, o, ho, rfl⟩
      · rename_i ho; cases hs; exact .inr (.inl ⟨hp, ho, rfl⟩)
    · rename_i hp
      exact .inr (.inr (.inr (.inr ⟨hp, sequencerStep_next hs⟩)))
    · rename_i hp
      split at hs
      · rename_i ho; cases hs; exact .inr (.inr (.inl ⟨hp, ho, rfl⟩))
      · rename_i ho; cases hs; exact .inr (.inr (.inr (.inl ⟨hp, by simpa using ho, rfl⟩)))

/-- Everything a step of the block with its host can do when it answers a next state. -/
theorem step_next_cases {s t : State} (hs : step s = .next t) :
    ((currentDrive s).reset = true ∧ t = nextDrive (hostReset s)) ∨
    ((currentDrive s).reset = false ∧
      ((s.phase = .idle ∧ ∃ o, (currentDrive s).offer = some o ∧ t = nextDrive (hostStart o s)) ∨
       (s.phase = .idle ∧ (currentDrive s).offer = none ∧ t = nextDrive s) ∨
       (s.phase = .done ∧ (currentDrive s).outReady = true ∧ t = nextDrive (hostTake s)) ∨
       (s.phase = .done ∧ (currentDrive s).outReady = false ∧ t = nextDrive s) ∨
       (s.phase = .run ∧ ∃ w i u, controlRom[s.seq.toNat]? = some w ∧ decode [w] = .instr i ∧
          exec i s = .next u ∧ t = nextDrive (advance u)))) :=
  stepWith_next_cases hs

theorem controlRom_length : controlRom.length = Config.romLen := rfl

theorem step_run {s : State} (hr : (currentDrive s).reset = false) (hp : s.phase = .run) :
    step s = sequencerStep exec controlRom s := by
  simp [step, stepWith, hr, hp]

end Sys2Proof.Machine
end

