-- ==== Sys2Proof/Laws/Run.lean ====
section
/-! SUPPORT. The order of work of R92: which operation stands at which step, and what a run has performed before it
(R94). -/

namespace Sys2Proof.Safety

open Sys2Proof.Machine

/-- The ROM's word at a step decodes to the operation of the order of work at that step (R92). -/
theorem romProgram_of_controlRom {n : Nat} {w : Byte} {i : Instr} (hw : controlRom[n]? = some w)
    (hi : decode [w] = .instr i) : romProgram[n]? = some i := by
  have hn : n < 73 := (List.getElem?_eq_some_iff.mp hw).1
  have hall : ∀ k < 73, controlRom[k]?.map (fun w => decode [w]) = romProgram[k]?.map .instr := by decide +kernel
  have := hall n hn
  rw [hw, Option.map_some, hi] at this
  cases hr : romProgram[n]? with
  | none => rw [hr] at this; cases this
  | some j => rw [hr] at this; cases this; rfl

/-- One more operation performed. -/
theorem performed_succ {n : Nat} {i : Instr} (hi : romProgram[n]? = some i) (j : Instr) :
    Performed (n + 1) j ↔ Performed n j ∨ j = i := by
  simp [Performed, List.take_add_one, hi]

theorem not_performed_zero (i : Instr) : ¬ Performed 0 i := by simp [Performed]

theorem avg_before_qbase {n : Nat} {f : Orient} (hi : romProgram[n]? = some (.qbase f)) (h : Half) :
    Performed n (.avg f h) := by
  have hn : n < 73 := (List.getElem?_eq_some_iff.mp hi).1
  have hall : ∀ k < 73, ∀ f ∈ [Orient.f0, .f1], ∀ h ∈ [Half.h0, .h1], romProgram[k]? = some (.qbase f) →
      .avg f h ∈ romProgram.take k := by decide +kernel
  exact hall n hn f (by cases f <;> simp) h (by cases h <;> simp) hi

theorem qbase_before_msearch {n : Nat} {f : Orient} {h : Half} {t : BitVec 3}
    (hi : romProgram[n]? = some (.msearch f h t)) : Performed n (.qbase f) := by
  have hn : n < 73 := (List.getElem?_eq_some_iff.mp hi).1
  have hall : ∀ k < 73, ∀ f ∈ [Orient.f0, .f1], ∀ h ∈ [Half.h0, .h1], ∀ t : BitVec 3,
      romProgram[k]? = some (.msearch f h t) → .qbase f ∈ romProgram.take k := by decide +kernel
  exact hall n hn f (by cases f <;> simp) h (by cases h <;> simp) t hi

/-- A `TBEST` follows directly on the `MSEARCH` with the same operands (R73, R92). -/
theorem msearch_before_tbest {n : Nat} {f : Orient} {h : Half} {t : BitVec 3}
    (hi : romProgram[n + 1]? = some (.tbest f h t)) : romProgram[n]? = some (.msearch f h t) := by
  have hn : n + 1 < 73 := (List.getElem?_eq_some_iff.mp hi).1
  have hall : ∀ k < 72, ∀ f ∈ [Orient.f0, .f1], ∀ h ∈ [Half.h0, .h1], ∀ t : BitVec 3,
      romProgram[k + 1]? = some (.tbest f h t) → romProgram[k]? = some (.msearch f h t) := by decide +kernel
  exact hall n (by omega) f (by cases f <;> simp) h (by cases h <;> simp) t hi

/-- Before `TBEST f,h,t` exactly the smaller tables of that half have been compared (R92). -/
theorem tbest_before_tbest {n : Nat} {f : Orient} {h : Half} {t : BitVec 3}
    (hi : romProgram[n]? = some (.tbest f h t)) (u : BitVec 3) : Performed n (.tbest f h u) ↔ u.toNat < t.toNat := by
  have hn : n < 73 := (List.getElem?_eq_some_iff.mp hi).1
  have hall : ∀ k < 73, ∀ f ∈ [Orient.f0, .f1], ∀ h ∈ [Half.h0, .h1], ∀ t : BitVec 3,
      romProgram[k]? = some (.tbest f h t) →
        ∀ u : BitVec 3, .tbest f h u ∈ romProgram.take k ↔ u.toNat < t.toNat := by decide +kernel
  exact hall n hn f (by cases f <;> simp) h (by cases h <;> simp) t hi u

theorem tbest_before_selori {n : Nat} (hi : romProgram[n]? = some .selori) (f : Orient) (h : Half) (t : BitVec 3) :
    Performed n (.tbest f h t) := by
  have hn : n < 73 := (List.getElem?_eq_some_iff.mp hi).1
  have hall : ∀ k < 73, romProgram[k]? = some .selori → ∀ f ∈ [Orient.f0, .f1], ∀ h ∈ [Half.h0, .h1],
      ∀ t : BitVec 3, .tbest f h t ∈ romProgram.take k := by decide +kernel
  exact hall n hn hi f (by cases f <;> simp) h (by cases h <;> simp) t

/-- Before `PACK` everything it reads has been performed (R94). -/
theorem work_before_pack {n : Nat} (hi : romProgram[n]? = some .pack) :
    Performed n .selori ∧ (∀ f, Performed n (.qbase f)) ∧ ∀ f h t, Performed n (.tbest f h t) := by
  have hn : n < 73 := (List.getElem?_eq_some_iff.mp hi).1
  have hall : ∀ k < 73, romProgram[k]? = some .pack → .selori ∈ romProgram.take k ∧
      (∀ f ∈ [Orient.f0, .f1], .qbase f ∈ romProgram.take k) ∧
      ∀ f ∈ [Orient.f0, .f1], ∀ h ∈ [Half.h0, .h1], ∀ t : BitVec 3, .tbest f h t ∈ romProgram.take k := by
    decide +kernel
  obtain ⟨ha, hb, hc⟩ := hall n hn hi
  exact ⟨ha, fun f => hb f (by cases f <;> simp), fun f h t => hc f (by cases f <;> simp) h (by cases h <;> simp) t⟩

theorem pack_before_ser {n : Nat} (hi : romProgram[n]? = some .ser) : n = 72 ∧ Performed n .pack := by
  have hn : n < 73 := (List.getElem?_eq_some_iff.mp hi).1
  have hall : ∀ k < 73, romProgram[k]? = some .ser → k = 72 ∧ .pack ∈ romProgram.take k := by decide +kernel
  exact hall n hn hi

end Sys2Proof.Safety
end

