-- ==== Sys2Proof/Tests/Slice0.lean ====
section
/-! SUPPORT. Tests on single steps, with expected results from spec/95_test_vectors.md, and a witness for each statement
that has hypotheses. -/

namespace Sys2Proof.Tests

open Sys2Proof.Machine Sys2Proof.Safety

/-! ## Which instructions the control ROM may hold -/

/-- The one check of WellFormed refuses both output formats (R36). -/
theorem test_wellFormed_refuses_blkIndiv : ¬ (Instr.blkIndiv (indivOfBits 0)).WellFormed := by decide

theorem test_wellFormed_refuses_blkDiff : ¬ (Instr.blkDiff (diffOfBits 0)).WellFormed := by decide

theorem test_wellFormed_accepts_msearch : (Instr.msearch .f1 .h0 7).WellFormed := by decide

/-! ## Decoding: words written out from 30_encoding.md R34 to R36 and from the 64-bit patterns after R43 -/

theorem test_decode_avg : decode [0b00101000#8] = .instr (.avg .f0 .h1) := by decide
theorem test_decode_qbase : decode [0b01010000#8] = .instr (.qbase .f1) := by decide
theorem test_decode_msearch : decode [0b01111110#8] = .instr (.msearch .f1 .h1 6) := by decide
theorem test_decode_tbest : decode [0b10010011#8] = .instr (.tbest .f1 .h0 3) := by decide
theorem test_decode_selori : decode [0b10100000#8] = .instr .selori := by decide
theorem test_decode_pack : decode [0b11000000#8] = .instr .pack := by decide
theorem test_decode_ser : decode [0b11100000#8] = .instr .ser := by decide

/-- Vector T2 read by the fields of R40: R1 = 4, R2 = 5, G1 = G2 = 7, B1 = 11, B2 = 10, tables 1 and 1, not flipped. -/
theorem test_decode_blkIndiv :
    decode [0x45, 0x77, 0xBA, 0x24, 0x13, 0x37, 0x89, 0x11] =
      .instr (.blkIndiv ⟨4, 5, 7, 7, 11, 10, 1, 1, .f0, 0x1337, 0x8911⟩) := by decide

/-- Vector T5 read by the fields of R41: bases 15, 12, 16, deltas −3, +2, +1, tables 5 and 5. -/
theorem test_decode_blkDiff :
    decode [0x7D, 0x62, 0x81, 0xB6, 0xE8, 0x17, 0x3E, 0x81] =
      .instr (.blkDiff ⟨15, 0b101, 12, 0b010, 16, 0b001, 5, 5, .f0, 0xE817, 0x3E81⟩) := by decide

/-- Reserved words (R37): all zero, `AVG` with `t ≠ 0`, `QBASE` with `h ≠ 0`, `SER` with an operand bit. -/
theorem test_decode_reserved :
    decode [0x00] = .reserved 0x00 ∧ decode [0x21] = .reserved 0x21 ∧ decode [0x48] = .reserved 0x48 ∧
    decode [0xE1] = .reserved 0xE1 := by decide

theorem test_decode_length : decode [0x20, 0x28] = .badLength 2 := by decide

theorem test_tableWord : decodeTableWord 8 0x20 = some (.avg .f0 .h0) ∧ decodeTableWord 8 0x01 = none := by decide

/-- Bit 33 of a table word of 64 bits is `diff` (R39). -/
theorem test_tableWord_block :
    decodeTableWord 64 0x0000000200000000 = some (.blkDiff ⟨0, 0, 0, 0, 0, 0, 0, 0, .f0, 0, 0⟩) := by decide

/-! ## One step of each operation -/

/-- Whether an outcome is a next state with a property. -/
def onNext (o : Host.Outcome State Fault Refusal) (p : State → Bool) : Bool :=
  match o with
  | .next s => p s
  | _ => false

/-- The bytes of the tile REDBLUE (95, named tiles). -/
def redBlueRow : List Byte := [255, 0, 0, 255, 0, 0, 0, 0, 255, 0, 0, 255]

/-- The bytes of the tile GRAD (95, named tiles). -/
def gradBytes : List Byte :=
  [0x28, 0x64, 0xC8, 0x38, 0x67, 0xBC, 0x48, 0x6A, 0xB0, 0x58, 0x6D, 0xA4] ++
  [0x30, 0x6E, 0xC3, 0x40, 0x71, 0xB7, 0x50, 0x74, 0xAB, 0x60, 0x77, 0x9F] ++
  [0x38, 0x78, 0xBE, 0x48, 0x7B, 0xB2, 0x58, 0x7E, 0xA6, 0x68, 0x81, 0x9A] ++
  [0x40, 0x82, 0xB9, 0x50, 0x85, 0xAD, 0x60, 0x88, 0xA1, 0x70, 0x8B, 0x95]

/-- A state with a tile and a mask latched, else as after reset. -/
def withTile (bytes : List Byte) (mask : BitVec 16) : State :=
  { State.reset with tile := Memory.writeBytes [] 0 bytes, mask := mask }

def redBlue : State := withTile (redBlueRow ++ redBlueRow ++ redBlueRow ++ redBlueRow) 0xFFFF

/-- S2: `AVG 1,0` of REDBLUE is (128,0,128), a remainder of 4 rounding up. -/
theorem test_avg_rounds_up :
    onNext (exec (.avg .f1 .h0) redBlue) (fun t => getAvg t .f1 .h0 == ⟨128, 0, 128⟩) = true := by decide +kernel

/-- Section 2.1: GRAD under mask 0333, `AVG 1,1` divides by 8 although two pixels are valid. -/
theorem test_avg_partial_half :
    onNext (exec (.avg .f1 .h1) (withTile gradBytes 0x0333)) (fun t => getAvg t .f1 .h1 == ⟨16, 30, 46⟩) = true := by
  decide +kernel

/-- A state with the two averages of orientation 0. -/
def withAvg (a1 a2 : Color) : State := setAvg (setAvg State.reset .f0 .h0 a1) .f0 .h1 a2

/-- Section 2.2: deltas (3,0,−4), both boundaries inside. -/
theorem test_qbase_differential :
    onNext (exec (.qbase .f0) (withAvg ⟨100, 100, 100⟩ ⟨127, 100, 62⟩)) (fun t =>
      t.hibase.f0 == 0x63606402 && getBase t .f0 .h1 == ⟨123, 99, 66⟩ && t.diff.f0 == .differential) = true := by
  decide +kernel

/-- Section 2.2: one delta of 4 makes all channels individual (GRAD, orientation 0). -/
theorem test_qbase_individual :
    onNext (exec (.qbase .f0) (withAvg ⟨60, 117, 187⟩ ⟨92, 123, 163⟩)) (fun t =>
      t.hibase.f0 == 0x4577BA00 && getBase t .f0 .h0 == ⟨68, 119, 187⟩ && t.diff.f0 == .individual) = true := by
  decide +kernel

/-- Section 2.3: GRAD `FFFF`, `MSEARCH 0,1,1` with base (85,119,170). -/
theorem test_msearch_grad :
    onNext (exec (.msearch .f0 .h1 1) (setBase (withTile gradBytes 0xFFFF) .f0 Color.zero ⟨85, 119, 170⟩)) (fun t =>
      t.cand == ⟨5468, 0x13008900⟩) = true := by decide +kernel

/-- Section 2.3: GRAD `0333`, `MSEARCH 0,0,2` skips the two invalid pixels of the half. -/
theorem test_msearch_partial :
    onNext (exec (.msearch .f0 .h0 2) (setBase (withTile gradBytes 0x0333) .f0 ⟨34, 85, 136⟩ Color.zero)) (fun t =>
      t.cand == ⟨8560, 0x00000076⟩) = true := by decide +kernel

/-- S4: 433 clamps to 255, not to 177, and the tie of entries 0 and 1 goes to 0; low end mirrored. -/
theorem test_pixel_clamps :
    pixBest (modTab 7) ⟨250, 250, 250⟩ ⟨255, 255, 255⟩ = (0, 0) ∧ pixBest (modTab 7) ⟨5, 5, 5⟩ ⟨0, 0, 0⟩ = (2, 0) := by
  decide

/-- A state with one candidate and one best of half 0 of orientation 0. -/
def withCand (c : Cand) (b : Best) : State := setBest (setCand State.reset c) .f0 .h0 b

/-- Section 2.4: equal scores keep the earlier table. -/
theorem test_tbest_tie :
    onNext (exec (.tbest .f0 .h0 3) (withCand ⟨40, 0⟩ ⟨2, 40, 0⟩)) (fun t => getBest t .f0 .h0 == ⟨2, 40, 0⟩) = true := by
  decide

/-- Section 2.4: `t = 0` stores even if the old score is smaller. -/
theorem test_tbest_zero :
    onNext (exec (.tbest .f0 .h0 0) (withCand ⟨5532, 0x003700BB⟩ ⟨5, 7, 0xFFFFFFFF⟩)) (fun t =>
      getBest t .f0 .h0 == ⟨0, 5532, 0x003700BB⟩) = true := by decide

/-- A state with the four best scores. -/
def withScores (a b c d : Score) : State :=
  { State.reset with best := ⟨⟨⟨0, a, 0⟩, ⟨0, b, 0⟩⟩, ⟨⟨0, c, 0⟩, ⟨0, d, 0⟩⟩⟩ }

/-- Section 2.4: at the bound of R68, 10404000 against 10403999. -/
theorem test_selori_bound :
    onNext (exec .selori (withScores 5202000 5202000 5202000 5201999)) (fun t =>
      t.sel == .f1 && t.total == ⟨10404000, 10403999⟩) = true := by decide

/-- Section 2.4: a tie that is not zero keeps 0. -/
theorem test_selori_tie :
    onNext (exec .selori (withScores 25777 17788 25777 17788)) (fun t => t.sel == .f0) = true := by decide

/-- A state with a winner. -/
def withWinner (f : Orient) (hibase : Word32) (b1 b2 : Best) : State :=
  setBest (setBest (setHibase (setSel State.reset f) f hibase) f .h0 b1) f .h1 b2

/-- Section 2.5, T2. -/
theorem test_pack_grad :
    onNext (exec .pack (withWinner .f0 0x4577BA00 ⟨1, 4776, 0x00370011⟩ ⟨1, 5468, 0x13008900⟩)) (fun t =>
      t.high == 0x4577BA24 && t.low == 0x13378911) = true := by decide

/-- Section 2.5: every low-byte bit set. -/
theorem test_pack_low_byte :
    onNext (exec .pack (withWinner .f1 0x00000002 ⟨7, 1, 0x33333333⟩ ⟨7, 1, 0xCCCCCCCC⟩)) (fun t =>
      t.high == 0x000000FF && t.low == 0xFFFFFFFF) = true := by decide

/-- Section 2.6: big-endian, `HIGH` first. -/
theorem test_ser_order :
    onNext (exec .ser (setLow (setHigh State.reset 0x01234567) 0x89ABCDEF)) (fun t =>
      outBytes t == [0x01, 0x23, 0x45, 0x67, 0x89, 0xAB, 0xCD, 0xEF]) = true := by decide

/-- Section 2.6: a zero byte written over a byte of an earlier block. -/
theorem test_ser_overwrites :
    onNext (exec .ser (setHigh { State.reset with out := [(0, 7), (5, 9)] } 1)) (fun t =>
      outBytes t == [0, 0, 0, 1, 0, 0, 0, 0]) = true := by decide

/-! ## The step and the host -/

/-- A running block at a step of the ROM. -/
def running (n : BitVec 7) : State := { State.reset with phase := .run, seq := n }

/-- Section 3, step 72: after `SER` the block is Done with `SEQ` 0. -/
theorem test_step_last :
    onNext (step (running 72)) (fun t => t.phase == .done && t.seq == 0) = true := by decide

/-- P5 event 14: a reset in mid-run. -/
theorem test_reset_in_run :
    onNext (step { running 30 with host := ⟨[⟨true, none, false⟩], []⟩ }) (fun t => t.phase == .idle && t.seq == 0) = true := by
  decide

/-- Each word of the ROM is placed so that the next step runs it: `SER` is at step 72. -/
theorem test_withFetchWord : (State.reset.withFetchWord 8 0xE0).seq = 72 ∧
    onNext (step (State.reset.withFetchWord 8 0x20)) (fun t => t.seq == 1) = true := by decide

/-- R105 (a): a reserved word in a ROM given as a parameter is refused, and is no no-operation. -/
theorem test_reserved_refused :
    stepWith exec [0x00] (running 0) = .refused (.reservedControlWord 0x00) := rfl

/-! ## Witnesses: states and operands that meet the hypotheses of the statements -/

/-- A block with one entry of its host's script. -/
def driven (p : Phase) (d : Drive) : State := { State.reset with phase := p, host := ⟨[d], []⟩ }

/-- An offer of a tile. -/
def anOffer : Offer := ⟨Vector.replicate 48 7, 0xFFFF⟩

theorem witness_EncodeOfDecode : decode [0xC0] = .instr .pack := by decide

theorem witness_ReservedWordsRefused : [(0x21 : Byte)][(running 0).seq.toNat]? = some 0x21 ∧ rowsSelected 0x21 = 0 := by
  decide

theorem witness_StepRunsDecoded :
    (currentDrive (running 71)).reset = false ∧ (running 71).phase = .run ∧
    controlRom[(running 71).seq.toNat]? = some 0xC0 ∧ decode [0xC0] = .instr .pack ∧ Instr.pack.WellFormed ∧
    ∃ t, exec .pack (running 71) = .next t := by
  exact ⟨by decide, rfl, by decide, by decide, by decide, _, rfl⟩

theorem witness_StepNeverStops : SeqInRange (running 72) := ⟨by decide, fun h => absurd rfl h⟩

/-- Both clauses, at the values where they meet. -/
theorem witness_StepAdvancesSeq :
    (running 71).phase = .run ∧ (currentDrive (running 71)).reset = false ∧ (running 71).seq.toNat = 71 ∧
    (running 72).phase = .run ∧ (currentDrive (running 72)).reset = false ∧ (running 72).seq.toNat = 72 := by decide

theorem witness_RunTakesSeventyThreeSteps :
    (running 0).phase = .run ∧ (running 0).seq = 0 ∧ NoReset 73 (running 0) :=
  ⟨rfl, rfl, by intro d hd; simp [running, State.reset] at hd⟩

theorem witness_StartLatchesTile :
    (driven .idle ⟨false, some anOffer, false⟩).phase = .idle ∧
    (currentDrive (driven .idle ⟨false, some anOffer, false⟩)).reset = false ∧
    (currentDrive (driven .idle ⟨false, some anOffer, false⟩)).offer = some anOffer := ⟨rfl, rfl, rfl⟩

theorem witness_BusyIgnoresOffers : (running 5).phase ≠ .idle ∧ (driven .done noDrive).phase ≠ .idle := by decide

theorem witness_TakeDeliversBlock :
    (driven .done ⟨false, none, true⟩).phase = .done ∧ (currentDrive (driven .done ⟨false, none, true⟩)).reset = false ∧
    (currentDrive (driven .done ⟨false, none, true⟩)).outReady = true := ⟨rfl, rfl, rfl⟩

/-- Both disjuncts. -/
theorem witness_WaitingChangesNothing :
    ((currentDrive State.reset).reset = false ∧ State.reset.phase = .idle ∧ (currentDrive State.reset).offer = none) ∧
    ((currentDrive (driven .done noDrive)).reset = false ∧ (driven .done noDrive).phase = .done ∧
      (currentDrive (driven .done noDrive)).outReady = false) := by decide

theorem witness_ResetWins : (currentDrive (driven .run ⟨true, some anOffer, true⟩)).reset = true := rfl

/-- A block about to run `SER`, every register but `PHASE`, `SEQ`, `SEL` as after reset. -/
def beforeSer : State := { running 72 with sel := .f1 }

theorem witness_StepKeepsSeqInRange : SeqInRange beforeSer ∧ ∃ t, step beforeSer = .next t :=
  ⟨⟨by decide, fun h => absurd rfl h⟩, _, rfl⟩

theorem witness_StepKeepsMemoryCanonical :
    MemoryCanonical { beforeSer with tile := [(0, 1), (47, 2)], out := [(7, 1)] } ∧
    ∃ t, step { beforeSer with tile := [(0, 1), (47, 2)], out := [(7, 1)] } = .next t :=
  ⟨⟨by decide, by decide⟩, _, rfl⟩

theorem witness_StepKeepsScoresBounded :
    ScoresBounded { withScores 5202000 5202000 5202000 5202000 with phase := .run, seq := 70 } ∧
    ∃ t, step { withScores 5202000 5202000 5202000 5202000 with phase := .run, seq := 70 } = .next t :=
  ⟨⟨by decide, by intro f h; cases f <;> cases h <;> decide, by intro f; cases f <;> decide⟩, _, rfl⟩

/-- A block that has quantized both orientations: vector T5. -/
def quantized : State :=
  { running 38 with
    diff := ⟨.differential, .individual⟩, hibase := ⟨0x7D628102, 0x67666A00⟩
    base := ⟨⟨⟨123, 99, 132⟩, ⟨99, 115, 140⟩⟩, ⟨⟨102, 102, 102⟩, ⟨119, 102, 170⟩⟩⟩ }

theorem hibaseShape_quantized : HibaseShape quantized := by intro f; cases f <;> decide

theorem baseMatchesFields_quantized : BaseMatchesFields quantized := by
  intro f
  cases f
  · exact ⟨by decide, by decide⟩
  · exact ⟨by decide, by decide⟩

theorem witness_StepKeepsHibaseShape : HibaseShape quantized ∧ ∃ t, step quantized = .next t :=
  ⟨hibaseShape_quantized, _, rfl⟩

theorem witness_StepKeepsBaseMatchesFields : BaseMatchesFields quantized ∧ ∃ t, step quantized = .next t :=
  ⟨baseMatchesFields_quantized, _, rfl⟩

theorem witness_StepKeepsDeltaSumsInRange : DeltaSumsInRange quantized ∧ ∃ t, step quantized = .next t := by
  refine ⟨?_, _, rfl⟩
  intro f hf
  cases f
  · decide
  · cases hf

/-- A block about to compare a candidate: section 2.4, row 3. -/
def comparing : State := { running 8 with
  cand := ⟨4776, 0x00370011⟩, best := ⟨⟨⟨0, 5532, 0x003700BB⟩, ⟨0, 0, 0⟩⟩, ⟨⟨0, 0, 0⟩, ⟨0, 0, 0⟩⟩⟩ }

theorem lowInHalf_comparing : LowInHalf comparing := by
  refine ⟨by intro f h; cases f <;> cases h <;> decide, ?_⟩
  rintro - f h n ⟨w, hw, hd⟩
  have hw' : controlRom[comparing.seq.toNat]? = some 0x81 := by decide
  have hd' : decode [0x81] = .instr (.tbest .f0 .h0 1) := by decide
  cases hw.symm.trans hw'
  cases hd.symm.trans hd'
  decide

theorem witness_StepKeepsLowInHalf : LowInHalf comparing ∧ ∃ t, step comparing = .next t :=
  ⟨lowInHalf_comparing, _, rfl⟩

theorem witness_StepKeepsOutIsBlock :
    OutIsBlock { driven .done ⟨false, none, true⟩ with out := [(3, 2)], high := 2 } ∧
    ∃ t, step { driven .done ⟨false, none, true⟩ with out := [(3, 2)], high := 2 } = .next t :=
  ⟨fun _ => by decide, _, rfl⟩

/-- Every micro-operation answers a next state somewhere: the hypothesis of the two frame statements. -/
theorem witness_OperationsLeaveOtherRegisters : ∀ i : Instr, i.WellFormed → ∃ t, exec i State.reset = .next t := by
  intro i hi
  cases i with
  | avg f h => exact ⟨_, rfl⟩
  | qbase f => exact ⟨_, rfl⟩
  | msearch f h n => exact ⟨_, rfl⟩
  | tbest f h n => exact ⟨_, exec_tbest f h n _⟩
  | selori => exact ⟨_, rfl⟩
  | pack => exact ⟨_, rfl⟩
  | ser => exact ⟨_, rfl⟩
  | blkIndiv b => cases hi
  | blkDiff b => cases hi

theorem witness_OperationsReadOnlyTheirOperands :
    Instr.ser.WellFormed ∧ ∀ r ∈ reads .ser, SameReg State.reset { State.reset with mask := 5, out := [(1, 1)] } r := by
  refine ⟨by decide, ?_⟩
  intro r hr
  simp only [reads, List.mem_cons, List.not_mem_nil, or_false] at hr
  rcases hr with rfl | rfl <;> rfl

/-- Both cases: `SER` writes `OUT`, and an accepted offer writes `MASK`. -/
theorem witness_OnlyWritersWrite :
    ((currentDrive (setHigh (running 72) 1)).reset = false ∧
      ∃ t, step (setHigh (running 72) 1) = .next t ∧ ¬ SameReg (setHigh (running 72) 1) t .out) ∧
    ((currentDrive (driven .idle ⟨false, some anOffer, false⟩)).reset = false ∧
      ∃ t, step (driven .idle ⟨false, some anOffer, false⟩) = .next t ∧
        ¬ SameReg (driven .idle ⟨false, some anOffer, false⟩) t .mask) := by
  refine ⟨⟨by decide, _, rfl, fun h => ?_⟩, rfl, _, rfl, fun h => ?_⟩
  · exact absurd (h 3 (by decide)) (by decide)
  · exact absurd (show (0 : BitVec 16) = 0xFFFF from h) (by decide)

/-- A step answers a next state in each phase: the hypothesis of PhaseTransitions and HostReceivesOnlyByTake. -/
theorem witness_PhaseTransitions :
    (∃ t, step State.reset = .next t) ∧ (∃ t, step (running 0) = .next t) ∧
    ∃ t, step (driven .done ⟨false, none, true⟩) = .next t := ⟨⟨_, rfl⟩, ⟨_, rfl⟩, _, rfl⟩

/-- Deltas of 3 and −4 are inside: the hypotheses of DifferentialBaseColors, and of DifferentialRoundTrip. -/
theorem witness_DifferentialBaseColors :
    inRange (delta 100 127) = true ∧ inRange (delta 100 100) = true ∧ inRange (delta 100 62) = true ∧
    getAvg (withAvg ⟨100, 100, 100⟩ ⟨127, 100, 62⟩) .f0 .h0 = ⟨100, 100, 100⟩ ∧
    getAvg (withAvg ⟨100, 100, 100⟩ ⟨127, 100, 62⟩) .f0 .h1 = ⟨127, 100, 62⟩ := by decide

theorem witness_DifferentialRoundTrip :
    ∃ t, exec (.qbase .f0) (withAvg ⟨100, 100, 100⟩ ⟨127, 100, 62⟩) = .next t ∧ t.diff.get .f0 = .differential :=
  ⟨_, rfl, by decide⟩

/-- Deltas of 4 and −5 are outside. -/
theorem witness_IndividualBaseColors : inRange (delta 100 130) = false ∧ inRange (delta 130 94) = false := by decide

theorem witness_DeltaFieldReadsBack : (-4 : Int) ≤ -4 ∧ (3 : Int) ≤ 3 ∧ twos3 (-4) = 0b100 ∧ twos3 3 = 0b011 := by decide

/-- One value of each clause, where they meet (R62). -/
theorem witness_ClampSaturates : clamp (-1) = 0 ∧ clamp 0 = 0 ∧ clamp 255 = 255 ∧ clamp 256 = 255 := by decide

theorem witness_BestTableKeptOnTie :
    (withCand ⟨39, 0⟩ ⟨2, 40, 0⟩).cand.score.toNat < (getBest (withCand ⟨39, 0⟩ ⟨2, 40, 0⟩) .f0 .h0).score.toNat ∧
    (getBest (withCand ⟨40, 0⟩ ⟨2, 40, 0⟩) .f0 .h0).score.toNat ≤ (withCand ⟨40, 0⟩ ⟨2, 40, 0⟩).cand.score.toNat := by
  decide

theorem witness_DifferentialWheneverRepresentable :
    getAvg (withAvg ⟨9, 9, 9⟩ ⟨9, 9, 9⟩) .f0 .h0 = getAvg (withAvg ⟨9, 9, 9⟩ ⟨9, 9, 9⟩) .f0 .h1 := by decide

theorem witness_OrientationOfLesserTotal : ScoresBounded (withScores 5202000 5202000 5202000 5201999) :=
  ⟨by decide, by intro f h; cases f <;> cases h <;> decide, by intro f; cases f <;> decide⟩

/-- A winner that meets both invariants of PackedFields, and the one of PackedBlockDecodes: vector T2. -/
def winner : State := withWinner .f0 0x4577BA00 ⟨1, 4776, 0x00370011⟩ ⟨1, 5468, 0x13008900⟩

theorem witness_PackedFields : HibaseShape winner ∧ LowInHalf winner := by
  refine ⟨by intro f; cases f <;> decide, by intro f h; cases f <;> cases h <;> decide, fun h => ?_⟩
  cases h

theorem witness_PackedColorsAreBaseColors : BaseMatchesFields quantized := baseMatchesFields_quantized

theorem witness_SerializationIsInjective :
    ∃ t t', exec .ser (setHigh (running 72) 3) = .next t ∧ exec .ser (setHigh beforeSer 3) = .next t' ∧
      outBytes t = outBytes t' := ⟨_, _, rfl, rfl, rfl⟩

theorem witness_RunComputesEncode :
    (driven .idle ⟨false, some anOffer, false⟩).phase = .idle ∧
    (currentDrive (driven .idle ⟨false, some anOffer, false⟩)).offer = some anOffer ∧
    NoReset 74 (driven .idle ⟨false, some anOffer, false⟩) :=
  ⟨rfl, rfl, by intro d hd; simp [driven] at hd; simp [hd]⟩

/-- A Done block after a run of the empty mask: vector S3. -/
def emptyDone : State :=
  { driven .done ⟨false, none, true⟩ with
    diff := ⟨.differential, .differential⟩, hibase := ⟨2, 2⟩, high := 2, out := [(3, 2)] }

/-- It holds what all 73 words of the run compute. -/
theorem runHolds_emptyDone : RunHolds modTab emptyDone := by
  refine ⟨fun h => (by cases h), fun _ => ?_⟩
  constructor
  case avg => intro f h _; cases f <;> cases h <;> decide
  case base => intro f _ h; cases f <;> cases h <;> decide
  case diff => intro f _; cases f <;> decide
  case hibase => intro f _; cases f <;> decide
  case cand => intro f h t ht; cases ht
  case best =>
    intro f h t _
    cases f <;> cases h <;> exact ⟨by unfold Performed; decide, by decide, by decide, Nat.zero_le _, fun _ => Nat.zero_le _⟩
  case total => intro _ f; cases f <;> decide
  case sel => intro _; decide
  case high => intro _; decide
  case low => intro _; decide
  case out => intro _; decide

/-- The hypotheses of each clause: a Done block that holds a run, and takes a step; a reachable Done block (the empty
mask, so that every step is small). -/
theorem witness_DoneHoldsEncoding :
    (RunHolds modTab emptyDone ∧ emptyDone.phase = .done ∧ ∃ t, step emptyDone = .next t) ∧
    ∃ s, Reachable s ∧ s.phase = .done :=
  ⟨⟨runHolds_emptyDone, rfl, _, rfl⟩,
    _, ⟨[⟨false, some ⟨Vector.replicate 48 0, 0⟩, false⟩], 74, rfl⟩, by decide +kernel⟩

/-- By hand from R64 and R69, under the table of zeros: 8 red pixels against black, 8 · 3 · 255² = 1560600. -/
theorem test_execWith_other_table :
    onNext (execWith (fun _ _ => 0) (.msearch .f0 .h0 0) redBlue) (fun t => t.cand.score == 1560600) = true := by
  decide +kernel

theorem witness_OperationsLeaveMemory : (∃ t, exec .ser beforeSer = .next t) ∧ ∃ t, exec .pack winner = .next t :=
  ⟨⟨_, rfl⟩, _, rfl⟩

theorem witness_HostReceivesOnlyByTake :
    (∃ t, step (driven .done ⟨false, none, true⟩) = .next t) ∧ ∃ t, step (driven .done noDrive) = .next t :=
  ⟨⟨_, rfl⟩, _, rfl⟩

theorem witness_PackedBlockDecodes : HibaseShape winner ∧ HibaseShape quantized :=
  ⟨witness_PackedFields.1, hibaseShape_quantized⟩

theorem witness_OutputFormatsAreNoOperations : decode [0x7F] = .instr (.msearch .f1 .h1 7) := by decide

/-- The tie clause: under the empty mask every combination scores 0. -/
theorem witness_SelectionIsLeastOfAll :
    tileScore modTab (fun _ => Color.zero) 0 .f1 .h0 7 + tileScore modTab (fun _ => Color.zero) 0 .f1 .h1 3 =
      tileTotal modTab (fun _ => Color.zero) 0 (tileFlip modTab (fun _ => Color.zero) 0) := by decide +kernel

theorem witness_InvalidPixelsAreUnread :
    ∀ p, valid 0x0001 p = true →
      (fun _ => Color.zero : Pixel → Color) p = (fun q => if q.x = 3 then ⟨1, 2, 3⟩ else Color.zero : Pixel → Color) p := by
  rintro ⟨x, y⟩
  revert x y
  decide

end Sys2Proof.Tests
end

section
/-! SUPPORT. What one step does to `PHASE`, `SEQ` and the registers, said once: the micro-operations leave the sequencer
alone and always complete, the end of a step (R90), and how an invariant of the registers is kept by every step. -/

namespace Sys2Proof.Machine

open Sys2Proof.Safety

/-- No micro-operation touches `PHASE`, `SEQ` or the host's side (10_state.md section 4). -/
theorem exec_keeps_sequencer {i : Instr} {s u : State} (hx : exec i s = .next u) :
    u.phase = s.phase ∧ u.seq = s.seq ∧ u.host = s.host := by
  rcases exec_next_cases hx with ⟨f, h, -, rfl⟩ | ⟨f, -, rfl⟩ | ⟨f, h, n, -, rfl⟩ | ⟨f, h, n, -, -, rfl⟩ |
    ⟨f, h, n, -, -, rfl⟩ | ⟨-, rfl⟩ | ⟨-, rfl⟩ | ⟨-, rfl⟩ <;> exact ⟨rfl, rfl, rfl⟩

theorem exec_completes {i : Instr} (hi : i.WellFormed) (s : State) : ∃ u, exec i s = .next u := by
  cases i with
  | avg f h => exact ⟨_, exec_avg f h s⟩
  | qbase f => exact ⟨_, exec_qbase f s⟩
  | msearch f h n => exact ⟨_, exec_msearch f h n s⟩
  | tbest f h n => exact ⟨_, exec_tbest f h n s⟩
  | selori => exact ⟨_, exec_selori s⟩
  | pack => exact ⟨_, exec_pack s⟩
  | ser => exact ⟨_, exec_ser s⟩
  | blkIndiv b => cases hi
  | blkDiff b => cases hi

theorem advance_of_lt {s : State} (h : s.seq.toNat < 72) : advance s = setSeq s (s.seq + 1) := if_pos h

theorem advance_of_not_lt {s : State} (h : ¬ s.seq.toNat < 72) : advance s = setSeq (setPhase s .done) 0 := if_neg h

@[simp] theorem advance_phase (s : State) : (advance s).phase = if s.seq.toNat < 72 then s.phase else .done := by
  split
  · next h => rw [advance_of_lt h]; rfl
  · next h => rw [advance_of_not_lt h]; rfl

/-- `SEQ` after a step, as a number: below the last word its 7 bits do not wrap (R7). -/
theorem toNat_seq_advance (s : State) :
    (advance s).seq.toNat = if s.seq.toNat < 72 then s.seq.toNat + 1 else 0 := by
  split
  · next h => rw [advance_of_lt h, setSeq_seq]; bv_omega
  · next h => rw [advance_of_not_lt h]; rfl

/-- The end of a running step leaves `SEQ` in range, wherever it stood (R7, R90). -/
theorem seqInRange_advance {u : State} (hp : u.phase = .run) : SeqInRange (advance u) := by
  by_cases h : u.seq.toNat < 72
  · refine ⟨?_, fun hn => absurd ?_ hn⟩
    · rw [toNat_seq_advance, if_pos h]
      exact Nat.succ_lt_succ h
    · rw [advance_phase, if_pos h, hp]
  · rw [advance_of_not_lt h]
    exact ⟨Nat.succ_pos _, fun _ => rfl⟩

@[simp] theorem advance_cand (s : State) : (advance s).cand = s.cand := by
  unfold advance; split <;> rfl

@[simp] theorem getBest_advance (s : State) (f : Orient) (h : Half) : getBest (advance s) f h = getBest s f h := by
  unfold advance; split <;> rfl

/-- Every word of the ROM decodes to a micro-operation (R36, R92). -/
theorem controlRom_decodes {n : Nat} (hn : n < 73) :
    ∃ w i, controlRom[n]? = some w ∧ decode [w] = .instr i ∧ i.WellFormed := by
  have hall : ∀ k < 73, ∃ i ∈ romProgram, i.WellFormed ∧ controlRom[k]?.map (fun w => decode [w]) = some (.instr i) := by
    decide +kernel
  obtain ⟨i, -, hwf, hk⟩ := hall n hn
  obtain ⟨w, hw, hd⟩ := Option.map_eq_some_iff.mp hk
  exact ⟨w, i, hw, hd, hwf⟩

/-- A running step whose micro-operation completes (R90). -/
theorem step_of_exec {s u : State} {w : Byte} {i : Instr} (hr : (currentDrive s).reset = false) (hp : s.phase = .run)
    (hw : controlRom[s.seq.toNat]? = some w) (hi : decode [w] = .instr i) (hx : exec i s = .next u) :
    step s = .next (nextDrive (advance u)) := by
  rw [step_run hr hp]
  simp only [sequencerStep, hw, hi, hx, finishStep]

/-- An invariant of the registers R8 to R19 alone: `PHASE`, `SEQ` and the host's side do not matter to it, and it holds
after a reset, when a tile is latched (R97) and when a micro-operation completes (R91). -/
structure RegisterInvariant (I : State → Prop) : Prop where
  setPhase_iff : ∀ s p, I (setPhase s p) ↔ I s
  setSeq_iff : ∀ s n, I (setSeq s n) ↔ I s
  setHost_iff : ∀ s x, I (setHost s x) ↔ I s
  at_reset : I State.reset
  latch_keeps : ∀ s (o : Offer), I s → I (setMask (setTile s o.tile) o.mask)
  exec_keeps : ∀ i s u, I s → exec i s = .next u → I u

theorem RegisterInvariant.advance_iff {I : State → Prop} (hI : RegisterInvariant I) (s : State) :
    I (advance s) ↔ I s := by
  by_cases h : s.seq.toNat < 72
  · rw [advance_of_lt h, hI.setSeq_iff]
  · rw [advance_of_not_lt h, hI.setSeq_iff, hI.setPhase_iff]

/-- The induction step of every invariant of the registers: each thing a step can do keeps it. -/
theorem RegisterInvariant.step_keeps {I : State → Prop} (hI : RegisterInvariant I) {s t : State} (hs : I s)
    (hst : step s = .next t) : I t := by
  rcases step_next_cases hst with ⟨-, rfl⟩ | ⟨-, ⟨-, o, -, rfl⟩ | ⟨-, -, rfl⟩ | ⟨-, -, rfl⟩ | ⟨-, -, rfl⟩ |
    ⟨-, w, i, u, -, -, hx, rfl⟩⟩ <;> rw [nextDrive_eq_setHost, hI.setHost_iff]
  · exact (hI.setHost_iff _ _).mpr hI.at_reset
  · exact (hI.setPhase_iff _ _).mpr ((hI.setSeq_iff _ _).mpr (hI.latch_keeps s o hs))
  · exact hs
  · exact (hI.setHost_iff _ _).mpr ((hI.setPhase_iff _ _).mpr hs)
  · exact hs
  · exact (hI.advance_iff u).mpr (hI.exec_keeps i s u hs hx)

end Sys2Proof.Machine
end

section
/-! SUPPORT. The frame of the registers by name (10_state.md section 4): each update keeps every register but its own,
and so each micro-operation every register outside its "Writes" line. -/

namespace Sys2Proof.Safety

open Sys2Proof.Machine

theorem sameReg_refl (s : State) (r : Reg) : SameReg s s r := by
  cases r with
  | tile => exact fun _ _ => rfl
  | out => exact fun _ _ => rfl
  | _ => rfl

section
variable {s t : State} {r : Reg} {f : Orient} {h : Half}

@[simp] theorem sameReg_setPhase {p : Phase} : SameReg s (setPhase t p) r ↔ SameReg s t r := by cases r <;> rfl

@[simp] theorem sameReg_setSeq {n : BitVec 7} : SameReg s (setSeq t n) r ↔ SameReg s t r := by cases r <;> rfl

@[simp] theorem sameReg_setHost {x : HostSide} : SameReg s (setHost t x) r ↔ SameReg s t r := by cases r <;> rfl

@[simp] theorem sameReg_advance : SameReg s (advance t) r ↔ SameReg s t r := by
  by_cases hn : t.seq.toNat < 72
  · rw [advance_of_lt hn, sameReg_setSeq]
  · rw [advance_of_not_lt hn, sameReg_setSeq, sameReg_setPhase]

theorem sameReg_setTile {b : Tile} (hr : r ≠ .tile) : SameReg s (setTile t b) r ↔ SameReg s t r := by
  cases r <;> simp_all [SameReg]

theorem sameReg_setMask {m : BitVec 16} (hr : r ≠ .mask) : SameReg s (setMask t m) r ↔ SameReg s t r := by
  cases r <;> simp_all [SameReg]

theorem sameReg_setAvg {c : Color} (hr : r ≠ .avg f h) : SameReg s (setAvg t f h c) r ↔ SameReg s t r := by
  cases r with
  | avg f' h' => simp only [SameReg, getAvg_setAvg, if_neg fun e : f' = f ∧ h' = h => hr (by rw [e.1, e.2])]
  | _ => rfl

theorem sameReg_setBase {c0 c1 : Color} (h0 : r ≠ .base f .h0) (h1 : r ≠ .base f .h1) :
    SameReg s (setBase t f c0 c1) r ↔ SameReg s t r := by
  cases r with
  | base f' h' => cases h' <;> simp_all [SameReg]
  | _ => rfl

theorem sameReg_setDiff {m : Mode} (hr : r ≠ .diff f) : SameReg s (setDiff t f m) r ↔ SameReg s t r := by
  cases r <;> simp_all [SameReg]

theorem sameReg_setHibase {w : Word32} (hr : r ≠ .hibase f) : SameReg s (setHibase t f w) r ↔ SameReg s t r := by
  cases r <;> simp_all [SameReg]

theorem sameReg_setCand {c : Cand} (hr : r ≠ .cand) : SameReg s (setCand t c) r ↔ SameReg s t r := by
  cases r <;> simp_all [SameReg]

theorem sameReg_setBest {b : Best} (hr : r ≠ .best f h) : SameReg s (setBest t f h b) r ↔ SameReg s t r := by
  cases r with
  | best f' h' => simp only [SameReg, getBest_setBest, if_neg fun e : f' = f ∧ h' = h => hr (by rw [e.1, e.2])]
  | _ => rfl

theorem sameReg_setTotal {n : Score} (hr : r ≠ .total f) : SameReg s (setTotal t f n) r ↔ SameReg s t r := by
  cases r <;> simp_all [SameReg]

theorem sameReg_setSel (hr : r ≠ .sel) : SameReg s (setSel t f) r ↔ SameReg s t r := by
  cases r <;> simp_all [SameReg]

theorem sameReg_setHigh {w : Word32} (hr : r ≠ .high) : SameReg s (setHigh t w) r ↔ SameReg s t r := by
  cases r <;> simp_all [SameReg]

theorem sameReg_setLow {w : Word32} (hr : r ≠ .low) : SameReg s (setLow t w) r ↔ SameReg s t r := by
  cases r <;> simp_all [SameReg]

theorem sameReg_writeOut {a : Nat} {bs : List Byte} (hr : r ≠ .out) : SameReg s (writeOut t a bs) r ↔ SameReg s t r := by
  cases r <;> simp_all [SameReg]

end

/-- A micro-operation leaves every register it does not list as written. -/
theorem exec_sameReg {i : Instr} {s u : State} {r : Reg} (hx : exec i s = .next u) (hr : r ∉ writes i) :
    SameReg s u r := by
  have hrefl := sameReg_refl s r
  rcases exec_next_cases hx with ⟨f, h, rfl, rfl⟩ | ⟨f, rfl, rfl⟩ | ⟨f, h, n, rfl, rfl⟩ | ⟨f, h, n, rfl, -, rfl⟩ |
    ⟨f, h, n, rfl, -, rfl⟩ | ⟨rfl, rfl⟩ | ⟨rfl, rfl⟩ | ⟨rfl, rfl⟩ <;>
    simp only [writes, List.mem_cons, List.not_mem_nil, or_false, not_or] at hr
  · exact (sameReg_setAvg hr).mpr hrefl
  · obtain ⟨hb0, hb1, hd, hh⟩ := hr
    rwa [sameReg_setHibase hh, sameReg_setBase hb0 hb1, sameReg_setDiff hd]
  · exact (sameReg_setCand hr).mpr hrefl
  · exact (sameReg_setBest hr).mpr hrefl
  · exact hrefl
  · obtain ⟨ht0, ht1, hsel⟩ := hr
    rwa [sameReg_setSel hsel, sameReg_setTotal ht1, sameReg_setTotal ht0]
  · obtain ⟨hhigh, hlow⟩ := hr
    rwa [sameReg_setLow hlow, sameReg_setHigh hhigh]
  · rwa [sameReg_writeOut hr, sameReg_writeOut hr]

end Sys2Proof.Safety
end

section
/-! SUPPORT. The registers `QBASE` writes. The color word of each branch read field by field (R40, R41, R56), and the
invariants that relate `DIFF`, `HIBASE` and `BASE` of one orientation. -/

namespace Sys2Proof.Machine

open Sys2Proof.Safety

theorem extractLsb'_placeField_same {w : Nat} (v : BitVec w) {pos : Nat} (hw : pos + w ≤ 32) :
    (placeField v pos).extractLsb' pos w = v := by
  ext j hj
  simp only [placeField, BitVec.getElem_extractLsb', BitVec.getLsbD_shiftLeft, BitVec.getLsbD_setWidth]
  simp [show pos + j < 32 by omega, show j < 32 by omega, hj]

theorem extractLsb'_placeField_of_disjoint {w : Nat} (v : BitVec w) {pos start len : Nat}
    (hd : pos + w ≤ start ∨ start + len ≤ pos) : (placeField v pos).extractLsb' start len = 0#len := by
  ext j hj
  simp only [placeField, BitVec.getElem_extractLsb', BitVec.getLsbD_shiftLeft, BitVec.getLsbD_setWidth]
  rcases hd with hd | hd
  · simp [BitVec.getLsbD_of_ge v (start + j - pos) (by omega)]
  · simp [show start + j < pos by omega]

theorem mode_individual_or_inRange (a1 a2 : Color) :
    chooseMode a1 a2 = .individual ∨ (chooseMode a1 a2 = .differential ∧ inRange (delta a1.r a2.r) = true ∧
      inRange (delta a1.g a2.g) = true ∧ inRange (delta a1.b a2.b) = true) := by
  unfold chooseMode
  split <;> simp_all

/-- R42: the 3-bit field of a delta in range, sign-extended, gives the second half's 5-bit channel back. -/
theorem second5_eq_add_signExtend (p : BitVec 5) {d : Int} (hd : inRange d = true) :
    second5 p d = p + (twos3 d).signExtend 5 := by
  simp only [inRange, Bool.and_eq_true, decide_eq_true_eq] at hd
  have hsext : (twos3 d).signExtend 5 = BitVec.ofInt 5 d := by
    have hall : ∀ e ∈ [(-4 : Int), -3, -2, -1, 0, 1, 2, 3], (twos3 e).signExtend 5 = BitVec.ofInt 5 e := by decide
    exact hall d (by simp; omega)
  rw [hsext, second5, BitVec.ofInt_add, BitVec.ofInt_natCast, BitVec.ofNat_toNat, BitVec.setWidth_eq]

/-- `QBASE`'s differential color word describes its two base colors (R56, R83). -/
theorem diffFieldsGive_diffHibase {a1 a2 : Color} (hr : inRange (delta a1.r a2.r) = true)
    (hg : inRange (delta a1.g a2.g) = true) (hb : inRange (delta a1.b a2.b) = true) :
    DiffFieldsGive (diffHibase a1 a2) (diffFirst a1) (diffSecond a1 a2) := by
  simp (disch := omega) only [DiffFieldsGive, diffHibase, diffFirst, diffSecond, BitVec.extractLsb'_or,
    extractLsb'_placeField_same, extractLsb'_placeField_of_disjoint, BitVec.or_zero, BitVec.zero_or,
    second5_eq_add_signExtend _ hr, second5_eq_add_signExtend _ hg, second5_eq_add_signExtend _ hb, and_self]

/-- `QBASE`'s individual color word describes its two base colors (R56, R83). -/
theorem indivFieldsGive_indivHibase (a1 a2 : Color) :
    IndivFieldsGive (indivHibase a1 a2) (indivColor a1) (indivColor a2) := by
  simp (disch := omega) only [IndivFieldsGive, indivHibase, indivColor, BitVec.extractLsb'_or,
    extractLsb'_placeField_same, extractLsb'_placeField_of_disjoint, BitVec.or_zero, BitVec.zero_or, and_self]

theorem fieldsGive_qbase (a1 a2 : Color) :
    FieldsGive (chooseMode a1 a2) (hibaseOf a1 a2) (baseFirst a1 a2) (baseSecond a1 a2) := by
  rcases mode_individual_or_inRange a1 a2 with hm | ⟨hm, hr, hg, hb⟩ <;>
    simp only [hibaseOf, baseFirst, baseSecond, hm, FieldsGive]
  · exact indivFieldsGive_indivHibase a1 a2
  · exact diffFieldsGive_diffHibase hr hg hb

/-- A color word whose bits 7:2 and 0 are zero and whose bit 1 is the mode (R13). -/
def ShapedWord (m : Mode) (w : Word32) : Prop :=
  w.extractLsb' 2 6 = 0 ∧ w.extractLsb' 0 1 = 0 ∧ w.extractLsb' 1 1 = modeBit m

theorem shapedWord_qbase (a1 a2 : Color) : ShapedWord (chooseMode a1 a2) (hibaseOf a1 a2) := by
  unfold ShapedWord hibaseOf
  cases chooseMode a1 a2 <;>
    simp (disch := omega) only [diffHibase, indivHibase, modeBit, BitVec.extractLsb'_or,
      extractLsb'_placeField_same, extractLsb'_placeField_of_disjoint, BitVec.or_zero, BitVec.zero_or] <;>
    decide

/-- A relation between the mode, the color word and the two base colors of each orientation: the form of
`BaseMatchesFields` and of `HibaseShape`. -/
def QuantizerHolds (P : Mode → Word32 → Color → Color → Prop) (s : State) : Prop :=
  ∀ f, P (s.diff.get f) (s.hibase.get f) (getBase s f .h0) (getBase s f .h1)

/-- A relation that the zeros of reset meet and `QBASE` establishes is an invariant of the registers: no other
operation writes `DIFF`, `HIBASE` or `BASE`. -/
theorem registerInvariant_quantizerHolds {P : Mode → Word32 → Color → Color → Prop}
    (hreset : P .individual 0 .zero .zero)
    (hqbase : ∀ a1 a2, P (chooseMode a1 a2) (hibaseOf a1 a2) (baseFirst a1 a2) (baseSecond a1 a2)) :
    RegisterInvariant (QuantizerHolds P) where
  setPhase_iff _ _ := Iff.rfl
  setSeq_iff _ _ := Iff.rfl
  setHost_iff _ _ := Iff.rfl
  at_reset f := by cases f <;> exact hreset
  latch_keeps _ _ hs := hs
  exec_keeps i s u hs hx := by
    rcases exec_next_cases hx with ⟨f, h, -, rfl⟩ | ⟨f, -, rfl⟩ | ⟨f, h, n, -, rfl⟩ | ⟨f, h, n, -, -, rfl⟩ |
      ⟨f, h, n, -, -, rfl⟩ | ⟨-, rfl⟩ | ⟨-, rfl⟩ | ⟨-, rfl⟩
    case inr.inl =>
      intro f'
      by_cases hf : f' = f
      · simpa [hf] using hqbase (getAvg s f .h0) (getAvg s f .h1)
      · simpa [hf] using hs f'
    all_goals exact hs

theorem registerInvariant_baseMatchesFields : RegisterInvariant BaseMatchesFields :=
  registerInvariant_quantizerHolds (P := FieldsGive) ⟨by decide, by decide⟩ fieldsGive_qbase

theorem registerInvariant_hibaseShape : RegisterInvariant HibaseShape :=
  registerInvariant_quantizerHolds (P := fun m w _ _ => ShapedWord m w) ⟨rfl, rfl, rfl⟩ shapedWord_qbase

end Sys2Proof.Machine
end

section
/-! SUPPORT. The index bits of a search lie in its own half (R67, R71). -/

namespace Sys2Proof.Machine

open Sys2Proof.Safety

theorem indexBits_inHalf {f : Orient} {h : Half} {p : Pixel} (hp : p ∈ half f h) (k : BitVec 2) :
    indexBits p k &&& ~~~(halfPlanes f h) = 0 := by
  have hall : ∀ f ∈ [Orient.f0, .f1], ∀ h ∈ [Half.h0, .h1], ∀ p ∈ half f h, ∀ k : BitVec 2,
      indexBits p k &&& ~~~(halfPlanes f h) = 0 := by decide +kernel
  exact hall f (by cases f <;> simp) h (by cases h <;> simp) p hp k

/-- A union of words outside a mask is outside it. -/
theorem foldl_or_and_eq_zero {m : Word32} {g : Pixel → Word32} {ps : List Pixel} {low : Word32}
    (hg : ∀ p ∈ ps, g p &&& m = 0) (hlow : low &&& m = 0) :
    ps.foldl (fun low p => low ||| g p) low &&& m = 0 := by
  induction ps generalizing low with
  | nil => exact hlow
  | cons p ps ih =>
    refine ih (fun q hq => hg q (List.mem_cons_of_mem p hq)) ?_
    rw [BitVec.and_or_distrib_right, hlow, hg p List.mem_cons_self]
    rfl

theorem searchLow_inHalf (row : BitVec 2 → Int) (px : Pixel → Color) (mask : BitVec 16) (f : Orient) (h : Half)
    (base : Color) : searchLow row px mask f h base &&& ~~~(halfPlanes f h) = 0 :=
  foldl_or_and_eq_zero (fun _ hp => indexBits_inHalf (mem_validPixels.mp hp).1 _) BitVec.zero_and

/-- `TBEST` stores the candidate, every other operation keeps `BEST` (R73). -/
theorem exec_keeps_best_inHalf {i : Instr} {s u : State}
    (hbest : ∀ f h, (getBest s f h).low &&& ~~~(halfPlanes f h) = 0)
    (hcand : ∀ f h t, i = .tbest f h t → s.cand.low &&& ~~~(halfPlanes f h) = 0) (hx : exec i s = .next u) :
    ∀ f h, (getBest u f h).low &&& ~~~(halfPlanes f h) = 0 := by
  rcases exec_next_cases hx with ⟨f, h, -, rfl⟩ | ⟨f, -, rfl⟩ | ⟨f, h, n, -, rfl⟩ | ⟨f, h, n, hi, -, rfl⟩ |
    ⟨f, h, n, -, -, rfl⟩ | ⟨-, rfl⟩ | ⟨-, rfl⟩ | ⟨-, rfl⟩
  case inr.inr.inr.inl =>
    intro f' h'
    rw [getBest_setBest]
    split
    · next he =>
      obtain ⟨rfl, rfl⟩ := he
      exact hcand f' h' n hi
    · exact hbest f' h'
  all_goals exact hbest

theorem lowInHalf_reset : LowInHalf State.reset :=
  ⟨fun f h => by cases f <;> cases h <;> rfl, fun hrun => by cases hrun⟩

theorem currentInstr_romProgram {s : State} {i : Instr} (hi : CurrentInstr s i) :
    romProgram[s.seq.toNat]? = some i := by
  obtain ⟨w, hw, hd⟩ := hi
  exact romProgram_of_controlRom hw hd

end Sys2Proof.Machine
end

section
/-! The statements about the state and its registers (10_state.md). -/

namespace Sys2Proof.Proofs

open Sys2Proof.Machine Sys2Proof.Safety

/-- Settles O21: `QBASE` establishes it in both modes, and nothing else writes the registers it speaks of. -/
theorem stepKeepsBaseMatchesFields : Obligations.StepKeepsBaseMatchesFields :=
  fun _ _ hs hst => registerInvariant_baseMatchesFields.step_keeps hs hst

/-- Settles O20: as O21, from the low byte of each branch's color word. -/
theorem stepKeepsHibaseShape : Obligations.StepKeepsHibaseShape :=
  fun _ _ hs hst => registerInvariant_hibaseShape.step_keeps hs hst

/-- Settles O23: the candidate a `TBEST` compares comes from the `MSEARCH` of the same half one step before, whose index
bits lie in that half. -/
theorem stepKeepsLowInHalf : Obligations.StepKeepsLowInHalf := by
  rintro s t ⟨hbest, hcand⟩ hst
  rcases step_next_cases hst with ⟨-, rfl⟩ | ⟨-, ⟨hp, o, -, rfl⟩ | ⟨hp, -, rfl⟩ | ⟨hp, -, rfl⟩ | ⟨hp, -, rfl⟩ |
    ⟨hp, w, i, u, hw, hi, hx, rfl⟩⟩
  · exact lowInHalf_reset
  · refine ⟨hbest, fun _ f h n hcur => ?_⟩
    have hfirst : romProgram[0]? = some (.tbest f h n) := currentInstr_romProgram hcur
    cases hfirst
  · exact ⟨hbest, hcand⟩
  · exact ⟨hbest, fun hrun => by cases hrun⟩
  · exact ⟨hbest, hcand⟩
  · obtain ⟨-, huq, -⟩ := exec_keeps_sequencer hx
    refine ⟨fun f h => ?_, fun hrun f h n hcur => ?_⟩
    · rw [nextDrive_eq_setHost, getBest_setHost, getBest_advance]
      exact exec_keeps_best_inHalf hbest (fun f h n hn => hcand hp f h n ⟨w, hw, hn ▸ hi⟩) hx f h
    · have hcmp : romProgram[(advance u).seq.toNat]? = some (.tbest f h n) := currentInstr_romProgram hcur
      have hlt : u.seq.toNat < 72 := by
        by_contra hge
        rw [nextDrive_eq_setHost, setHost_phase, advance_phase, if_neg hge] at hrun
        cases hrun
      rw [toNat_seq_advance, if_pos hlt, huq] at hcmp
      have hsearch : some i = some (.msearch f h n) :=
        (romProgram_of_controlRom hw hi).symm.trans (msearch_before_tbest hcmp)
      cases hsearch
      cases hx
      rw [nextDrive_eq_setHost, setHost_cand, advance_cand]
      exact searchLow_inHalf ..

/-- Settles O8: the word at `SEQ` decodes to a micro-operation, which completes and leaves `SEQ` to the end of the step. -/
theorem stepAdvancesSeq : Obligations.StepAdvancesSeq := by
  intro s hp hr hle
  obtain ⟨w, i, hw, hi, hwf⟩ := controlRom_decodes (n := s.seq.toNat) (by omega)
  obtain ⟨u, hx⟩ := exec_completes hwf s
  obtain ⟨hup, huq, -⟩ := exec_keeps_sequencer hx
  refine ⟨_, step_of_exec hr hp hw hi hx, ?_⟩
  by_cases h : s.seq.toNat = 72
  · rw [if_pos h, advance_of_not_lt (by rw [huq]; omega)]
    exact ⟨rfl, rfl⟩
  · have hlt : s.seq.toNat < 72 := by omega
    simp [h, hlt, toNat_seq_advance, hup, huq, hp]

/-- Settles O17, by the cases of a step. -/
theorem stepKeepsSeqInRange : Obligations.StepKeepsSeqInRange := by
  rintro s t ⟨hlt, hz⟩ hst
  rcases step_next_cases hst with ⟨-, rfl⟩ | ⟨-, ⟨-, o, -, rfl⟩ | ⟨-, -, rfl⟩ | ⟨hp, -, rfl⟩ | ⟨-, -, rfl⟩ |
    ⟨hp, w, i, u, -, -, hx, rfl⟩⟩
  · exact ⟨Nat.succ_pos _, fun _ => rfl⟩
  · exact ⟨Nat.succ_pos _, fun _ => rfl⟩
  · exact ⟨hlt, hz⟩
  · exact ⟨hlt, fun _ => hz (by simp [hp])⟩
  · exact ⟨hlt, hz⟩
  · obtain ⟨hup, -, -⟩ := exec_keeps_sequencer hx
    exact seqInRange_advance (hup.trans hp)

/-- Settles O28, from the frames of the micro-operations and of `START`; every other step keeps all registers. -/
theorem onlyWritersWrite : Obligations.OnlyWritersWrite := by
  intro s t r hr hst hne
  have hrefl := sameReg_refl s r
  rcases step_next_cases hst with ⟨hr', -⟩ | ⟨-, ⟨hp, o, ho, rfl⟩ | ⟨-, -, rfl⟩ | ⟨-, -, rfl⟩ | ⟨-, -, rfl⟩ |
    ⟨hp, w, i, u, hw, hi, hx, rfl⟩⟩
  · rw [hr] at hr'; cases hr'
  · refine .inr ⟨hp, by rw [ho]; rfl, ?_⟩
    by_contra hcon
    obtain ⟨htile, hmask⟩ := not_or.mp hcon
    apply hne
    simpa [hostStart, sameReg_setMask hmask, sameReg_setTile htile] using hrefl
  · simp [hrefl] at hne
  · simp [hostTake, hrefl] at hne
  · simp [hrefl] at hne
  · refine .inl ⟨hp, i, ⟨w, hw, hi⟩, ?_⟩
    by_contra hcon
    apply hne
    simpa using exec_sameReg hx hcon

/-- Settles O29, by the cases of a step. -/
theorem phaseTransitions : Obligations.PhaseTransitions := by
  intro s t hst
  rcases step_next_cases hst with ⟨hr, rfl⟩ | ⟨hr, ⟨hp, o, ho, rfl⟩ | ⟨hp, ho, rfl⟩ | ⟨hp, ho, rfl⟩ | ⟨hp, ho, rfl⟩ |
    ⟨hp, w, i, u, -, -, hx, rfl⟩⟩
  · simp [hr, hostReset, State.reset]
  · simp [hr, hp, ho, hostStart]
  · simp [hr, hp, ho]
  · simp [hr, hp, ho, hostTake]
  · simp [hr, hp, ho]
  · obtain ⟨hup, huq, -⟩ := exec_keeps_sequencer hx
    simp [hr, hp, hup, huq]

/-- Settles O16: the two invariants of the registers hold there by their own proofs; the block is idle, so the clauses
about a running or a Done block are empty. -/
theorem invariantsAtReset : Obligations.InvariantsAtReset := by
  refine ⟨⟨Nat.succ_pos _, fun _ => rfl⟩, ⟨rfl, rfl⟩, ⟨Nat.zero_le _, fun f h => ?_, fun f => ?_⟩,
    registerInvariant_hibaseShape.at_reset, registerInvariant_baseMatchesFields.at_reset, fun f hf => ?_,
    lowInHalf_reset, fun hdone => ?_, fun hrun => ?_, fun hdone => ?_⟩
  · cases f <;> cases h <;> exact Nat.zero_le _
  · cases f <;> exact Nat.zero_le _
  · cases f <;> cases hf
  · cases hdone
  · cases hrun
  · cases hdone

/-- Settles O15: each clause is a value of the fixed reset state. -/
theorem resetIsIdle : Obligations.ResetIsIdle := ⟨rfl, rfl, rfl, rfl, rfl⟩

end Sys2Proof.Proofs
end

section
/-! SUPPORT. The two buffers under a micro-operation (20_memory.md R23, R29): `SER` writes `OUT`, no other operation
writes either. -/

namespace Sys2Proof.Machine

open Sys2Proof.Safety

theorem writeBytes_append (m : Memory) (a : Nat) (vs ws : List Byte) :
    Memory.writeBytes m a (vs ++ ws) = Memory.writeBytes (Memory.writeBytes m a vs) (a + vs.length) ws := by
  induction vs generalizing m a with
  | nil => rfl
  | cons v vs ih =>
    rw [List.cons_append, Memory.writeBytes, ih, Memory.writeBytes, List.length_cons, Nat.add_right_comm, Nat.add_assoc]

/-- The bytes read where some were written are those that were written. -/
theorem readBytes_writeBytes (m : Memory) (a : Nat) (vs : List Byte) :
    Memory.readBytes (Memory.writeBytes m a vs) a vs.length = vs := by
  induction vs generalizing m a with
  | nil => rfl
  | cons v vs ih =>
    have hhead : Memory.read (Memory.writeBytes (Memory.write m a v) (a + 1) vs) a = v := by
      rw [read_writeBytes, if_neg (by omega), read_write, if_pos rfl]
    rw [Memory.writeBytes, List.length_cons, Memory.readBytes, hhead, ih]

/-- The eight bytes of a block are those of its two words, `HIGH` first (R26). -/
theorem wordBytes_append_wordBytes (high low : Word32) : wordBytes high ++ wordBytes low = blockBytes (high ++ low) := by
  simp (disch := decide) only [wordBytes, blockBytes, List.cons_append, List.nil_append,
    BitVec.extractLsb'_append_eq_of_le, BitVec.extractLsb'_append_eq_of_add_le]

theorem getD_blockBytes (w : BitVec 64) {j : Nat} (hj : j < 8) :
    (blockBytes w).getD j 0 = w.extractLsb' (56 - 8 * j) 8 := by
  interval_cases j <;> rfl

/-- `SER` is one write of the eight bytes of `HIGH` then `LOW` (R87). -/
theorem out_of_exec_ser {s u : State} (hx : exec .ser s = .next u) :
    u.out = Memory.writeBytes s.out 0 (wordBytes s.high ++ wordBytes s.low) := by
  cases hx
  exact (writeBytes_append s.out 0 (wordBytes s.high) (wordBytes s.low)).symm

theorem outBytes_of_exec_ser {s u : State} (hx : exec .ser s = .next u) :
    outBytes u = wordBytes s.high ++ wordBytes s.low := by
  rw [outBytes, out_of_exec_ser hx]
  exact readBytes_writeBytes s.out 0 (wordBytes s.high ++ wordBytes s.low)

theorem exec_keeps_tile {i : Instr} {s u : State} (hx : exec i s = .next u) : u.tile = s.tile := by
  rcases exec_next_cases hx with ⟨f, h, -, rfl⟩ | ⟨f, -, rfl⟩ | ⟨f, h, n, -, rfl⟩ | ⟨f, h, n, -, -, rfl⟩ |
    ⟨f, h, n, -, -, rfl⟩ | ⟨-, rfl⟩ | ⟨-, rfl⟩ | ⟨-, rfl⟩ <;> rfl

theorem exec_keeps_out {i : Instr} {s u : State} (hi : i ≠ .ser) (hx : exec i s = .next u) : u.out = s.out := by
  rcases exec_next_cases hx with ⟨f, h, -, rfl⟩ | ⟨f, -, rfl⟩ | ⟨f, h, n, -, rfl⟩ | ⟨f, h, n, -, -, rfl⟩ |
    ⟨f, h, n, -, -, rfl⟩ | ⟨-, rfl⟩ | ⟨-, rfl⟩ | ⟨hser, -⟩
  case inr.inr.inr.inr.inr.inr.inr => exact absurd hser hi
  all_goals rfl

/-- The canonical form of both buffers (R23, log 3): `START` writes the 48 bytes of `TILE` and `SER` the 8 of `OUT`, each
inside its address space, and nothing else writes a buffer. -/
theorem registerInvariant_memoryCanonical : RegisterInvariant MemoryCanonical where
  setPhase_iff _ _ := Iff.rfl
  setSeq_iff _ _ := Iff.rfl
  setHost_iff _ _ := Iff.rfl
  at_reset := ⟨rfl, rfl⟩
  latch_keeps s o := by
    rintro ⟨htile, hout⟩
    exact ⟨wf_writeBytes htile (by simp), hout⟩
  exec_keeps i s u := by
    rintro ⟨htile, hout⟩ hx
    refine ⟨(exec_keeps_tile hx).symm ▸ htile, ?_⟩
    by_cases hi : i = .ser
    · subst hi
      rw [out_of_exec_ser hx]
      exact wf_writeBytes hout (by simp [wordBytes])
    · rwa [exec_keeps_out hi hx]

/-- The last word of the ROM is `SER` (R92). -/
theorem ser_of_controlRom_last {n : Nat} {w : Byte} {i : Instr} (hn : ¬ n < 72) (hw : controlRom[n]? = some w)
    (hi : decode [w] = .instr i) : i = .ser := by
  have hlen : n < 73 := (List.getElem?_eq_some_iff.mp hw).1
  obtain rfl : n = 72 := by omega
  exact (Option.some.inj (romProgram_of_controlRom hw hi)).symm

end Sys2Proof.Machine
end

section
/-! SUPPORT. `ENCODE` reads no pixel but the valid ones (20_memory.md R25, 46_block_sequencer.md R96): the sums, scores
and index bits run over the valid pixels, and all the rest is a function of these. -/

namespace Sys2Proof.Machine

section
variable {px px' : Pixel → Color} {mask : BitVec 16} (hpx : ∀ p, valid mask p = true → px p = px' p)
include hpx

theorem map_validPixels_congr {α : Type} {f : Orient} {h : Half} (g : Color → α) :
    (validPixels mask f h).map (fun p => g (px p)) = (validPixels mask f h).map fun p => g (px' p) :=
  List.map_congr_left fun p hp => congrArg g (hpx p (mem_validPixels.mp hp).2)

theorem averageHalf_congr : averageHalf px mask = averageHalf px' mask := by
  funext f h
  have hsum (chan : Color → Byte) : channelSum px mask f h chan = channelSum px' mask f h chan :=
    congrArg List.sum (map_validPixels_congr hpx fun c => (chan c).toNat)
  simp only [averageHalf, hsum]

theorem searchScore_congr (row : BitVec 2 → Int) : searchScore row px mask = searchScore row px' mask := by
  funext f h base
  exact congrArg List.sum (map_validPixels_congr hpx fun c => (pixBest row base c).2)

theorem searchLow_congr (row : BitVec 2 → Int) : searchLow row px mask = searchLow row px' mask := by
  funext f h base
  refine List.foldl_ext _ _ _ fun low p hp => ?_
  rw [hpx p (mem_validPixels.mp hp).2]

theorem tileBase_congr : tileBase px mask = tileBase px' mask := by
  funext f h
  cases h <;> simp only [tileBase, averageHalf_congr hpx]

theorem tileScore_congr (tab : Config.ModTab) : tileScore tab px mask = tileScore tab px' mask := by
  funext f h t
  simp only [tileScore, searchScore_congr hpx, tileBase_congr hpx]

theorem tileLow_congr (tab : Config.ModTab) : tileLow tab px mask = tileLow tab px' mask := by
  funext f h t
  simp only [tileLow, searchLow_congr hpx, tileBase_congr hpx]

theorem tileTable_congr (tab : Config.ModTab) : tileTable tab px mask = tileTable tab px' mask := by
  funext f h
  simp only [tileTable, tileScore_congr hpx]

theorem tileTotal_congr (tab : Config.ModTab) : tileTotal tab px mask = tileTotal tab px' mask := by
  funext f
  simp only [tileTotal, tileScore_congr hpx, tileTable_congr hpx]

theorem tileFlip_congr (tab : Config.ModTab) : tileFlip tab px mask = tileFlip tab px' mask := by
  rw [tileFlip, tileTotal_congr hpx, ← tileFlip]

theorem encodePixels_congr (tab : Config.ModTab) : encodePixels tab px mask = encodePixels tab px' mask := by
  simp only [encodePixels, tileHigh, tileLowWord, averageHalf_congr hpx, tileTable_congr hpx, tileLow_congr hpx,
    tileFlip_congr hpx]

end

end Sys2Proof.Machine
end

section
/-! The statements about the memory (20_memory.md). -/

namespace Sys2Proof.Proofs

open Sys2Proof.Machine Sys2Proof.Safety

/-- Settles O18: every write stays inside its buffer and keeps the canonical form. -/
theorem stepKeepsMemoryCanonical : Obligations.StepKeepsMemoryCanonical :=
  fun _ _ hs hst => registerInvariant_memoryCanonical.step_keeps hs hst

/-- Settles O24: a running block becomes Done only at the last word, which is `SER`; a Done block that stays so keeps
`HIGH`, `LOW` and `OUT`. -/
theorem stepKeepsOutIsBlock : Obligations.StepKeepsOutIsBlock := by
  intro s t hs hst hdone
  rcases step_next_cases hst with ⟨-, rfl⟩ | ⟨-, ⟨-, o, -, rfl⟩ | ⟨-, -, rfl⟩ | ⟨-, -, rfl⟩ | ⟨-, -, rfl⟩ |
    ⟨hp, w, i, u, hw, hi, hx, rfl⟩⟩
  · cases hdone
  · cases hdone
  · exact hs hdone
  · cases hdone
  · exact hs hdone
  · obtain ⟨hup, huq, -⟩ := exec_keeps_sequencer hx
    have hlast : ¬ u.seq.toNat < 72 := by
      intro hlt
      rw [nextDrive_eq_setHost, setHost_phase, advance_phase, if_pos hlt, hup, hp] at hdone
      cases hdone
    obtain rfl := ser_of_controlRom_last (huq ▸ hlast) hw hi
    have hout := outBytes_of_exec_ser hx
    rw [advance_of_not_lt hlast]
    cases hx
    exact hout

/-- Settles O26: `TILE` and, but under `SER`, `OUT` are kept whole; `SER` writes eight bytes from address 0 on. -/
theorem operationsLeaveMemory : Obligations.OperationsLeaveMemory := by
  intro i s t hx
  refine ⟨fun a => by rw [exec_keeps_tile hx], fun a ha => ?_⟩
  by_cases hi : i = .ser
  · subst hi
    have hge : ¬ a < 8 := fun hlt => ha ⟨rfl, hlt⟩
    rw [out_of_exec_ser hx, read_writeBytes]
    exact if_neg fun hin => hge (by simpa [wordBytes] using hin)
  · rw [exec_keeps_out hi hx]

/-- Settles O52: `SER` is one write of the eight bytes of the block `HIGH ∥ LOW`. -/
theorem serializedBytes : Obligations.SerializedBytes := by
  intro s
  refine ⟨_, exec_ser s, outBytes_of_exec_ser (exec_ser s), fun j hj => ?_⟩
  have hin : 0 ≤ j ∧ j < 0 + (blockBytes (s.high ++ s.low)).length := ⟨Nat.zero_le j, by simpa [blockBytes] using hj⟩
  rw [out_of_exec_ser (exec_ser s), wordBytes_append_wordBytes, read_writeBytes, if_pos hin, Nat.sub_zero,
    getD_blockBytes _ hj]

/-- Settles O57: the averages, scores and index bits are taken over the valid pixels alone. -/
theorem invalidPixelsAreUnread : Obligations.InvalidPixelsAreUnread :=
  fun tab _ _ _ hpx => encodePixels_congr hpx tab

end Sys2Proof.Proofs
end

section
/-! SUPPORT. The fields of a word by position: a field placed is read back, a word is its fields; then what the encoder
places and the decoder reads (30_encoding.md R34 to R43). -/

namespace Sys2Proof

theorem extractLsb'_placeBits_same {w : Nat} (v : BitVec w) {pos : Nat} (hw : pos + w ≤ 64) :
    (placeBits v pos).extractLsb' pos w = v := by
  ext j hj
  simp only [placeBits, BitVec.getElem_extractLsb', BitVec.getLsbD_shiftLeft, BitVec.getLsbD_setWidth]
  simp [show pos + j < 64 by omega, show j < 64 by omega, hj]

theorem extractLsb'_placeBits_of_disjoint {w : Nat} (v : BitVec w) {pos start len : Nat}
    (hd : pos + w ≤ start ∨ start + len ≤ pos) : (placeBits v pos).extractLsb' start len = 0#len := by
  ext j hj
  simp only [placeBits, BitVec.getElem_extractLsb', BitVec.getLsbD_shiftLeft, BitVec.getLsbD_setWidth]
  rcases hd with hd | hd
  · simp [BitVec.getLsbD_of_ge v (start + j - pos) (by omega)]
  · simp [show start + j < pos by omega]

/-- Two words that agree on fields, given as (position, length), that cover every bit are equal. -/
theorem eq_of_fields_eq {n : Nat} {w w' : BitVec n} (fields : List (Nat × Nat))
    (hcover : ∀ j < n, ∃ c ∈ fields, c.1 ≤ j ∧ j < c.1 + c.2)
    (heq : ∀ c ∈ fields, w.extractLsb' c.1 c.2 = w'.extractLsb' c.1 c.2) : w = w' := by
  ext j hj
  obtain ⟨c, hc, hle, hlt⟩ := hcover j hj
  have hbit := congrArg (·.getLsbD (j - c.1)) (heq c hc)
  simpa [Nat.add_sub_cancel' hle, show j - c.1 < c.2 by omega, hj] using hbit

theorem extractLsb'_one_eq_iff {n pos : Nat} {w w' : BitVec n} :
    w.extractLsb' pos 1 = w'.extractLsb' pos 1 ↔ w.getLsbD pos = w'.getLsbD pos := by
  have hbit : ∀ b c : BitVec 1, b = c ↔ (b == 1#1) = (c == 1#1) := by decide
  rw [BitVec.getLsbD_eq_extractLsb', BitVec.getLsbD_eq_extractLsb']
  exact hbit _ _

theorem orientOfBit_inj {b c : Bool} : orientOfBit b = orientOfBit c ↔ b = c := by revert b c; decide

@[simp] theorem orientOfBit_orientBit (f : Orient) : orientOfBit (orientBit f == 1#1) = f := by cases f <;> rfl

@[simp] theorem halfOfBit_halfBit (h : Half) : halfOfBit (halfBit h == 1#1) = h := by cases h <;> rfl

@[simp] theorem orientBit_orientOfBit (b : BitVec 1) : orientBit (orientOfBit (b == 1#1)) = b := by revert b; decide

@[simp] theorem halfBit_halfOfBit (b : BitVec 1) : halfBit (halfOfBit (b == 1#1)) = b := by revert b; decide

section
variable (op : BitVec 3) (f h : BitVec 1) (t : BitVec 3)

@[simp] theorem opField_controlWord : opField (controlWord op f h t) = op := by
  simp (disch := omega) only [opField, controlWord, BitVec.extractLsb'_append_eq_of_le, BitVec.extractLsb'_eq_self,
    Nat.reduceSub]

@[simp] theorem fField_controlWord : fField (controlWord op f h t) = orientOfBit (f == 1#1) := by
  simp (disch := omega) only [fField, controlWord, BitVec.getLsbD_eq_extractLsb', BitVec.extractLsb'_append_eq_of_le,
    BitVec.extractLsb'_append_eq_of_add_le, BitVec.extractLsb'_eq_self, Nat.reduceSub]

@[simp] theorem hField_controlWord : hField (controlWord op f h t) = halfOfBit (h == 1#1) := by
  simp (disch := omega) only [hField, controlWord, BitVec.getLsbD_eq_extractLsb', BitVec.extractLsb'_append_eq_of_le,
    BitVec.extractLsb'_append_eq_of_add_le, BitVec.extractLsb'_eq_self, Nat.reduceSub]

@[simp] theorem tField_controlWord : tField (controlWord op f h t) = t :=
  BitVec.extractLsb'_append_eq_right

end

/-- A control word is its four fields (R34). -/
theorem controlWord_fields (cw : Byte) :
    controlWord (opField cw) (orientBit (fField cw)) (halfBit (hField cw)) (tField cw) = cw := by
  simp only [controlWord, opField, fField, hField, tField, BitVec.getLsbD_eq_extractLsb', orientBit_orientOfBit,
    halfBit_halfOfBit]
  rw [BitVec.extractLsb'_append_extractLsb'_eq_extractLsb' (rfl : 5 = 4 + 1),
    BitVec.extractLsb'_append_extractLsb'_eq_extractLsb' (rfl : 4 = 3 + 1),
    BitVec.extractLsb'_append_extractLsb'_eq_extractLsb' (rfl : 3 = 0 + 3), BitVec.extractLsb'_eq_self]

/-- A control word with no operand bit set is its `op` field (R34). -/
theorem controlWord_of_no_operands {cw : Byte} (hz : cw.extractLsb' 0 5 = 0) : controlWord (opField cw) 0 0 0 = cw := by
  have happ (op : BitVec 3) : controlWord op 0 0 0 = op ++ 0#5 := by revert op; decide
  calc controlWord (opField cw) 0 0 0 = cw.extractLsb' 5 3 ++ cw.extractLsb' 0 5 := by rw [happ, hz]; rfl
    _ = cw.extractLsb' 0 8 := BitVec.extractLsb'_append_extractLsb'_eq_extractLsb' rfl
    _ = cw := BitVec.extractLsb'_eq_self

/-- A meaning of a control word: it is reserved, or it is the encoding of a micro-operation (R36, R37). -/
def ControlMeaning (cw : Byte) (d : Decoded) : Prop :=
  d = .reserved cw ∨ ∃ i, i.WellFormed ∧ encode i = [cw] ∧ d = .instr i

theorem controlMeaning_instr {cw w : Byte} {i : Instr} (hi : i.WellFormed) (he : encode i = [w]) (hw : w = cw) :
    ControlMeaning cw (.instr i) := .inr ⟨i, hi, hw ▸ he, rfl⟩

theorem controlMeaning_ite {cw w : Byte} {i : Instr} {p : Prop} [Decidable p] (hi : i.WellFormed)
    (he : encode i = [w]) (hw : p → w = cw) : ControlMeaning cw (if p then .instr i else .reserved cw) := by
  split
  · next hp => exact controlMeaning_instr hi he (hw hp)
  · exact .inl rfl

theorem controlMeaning_decodeControl (cw : Byte) : ControlMeaning cw (decodeControl cw) := by
  have hop (n : BitVec 3) (h : (opField cw).toNat = n.toNat) : n = opField cw := BitVec.eq_of_toNat_eq h.symm
  have hcw := controlWord_fields cw
  unfold decodeControl
  split
  case h_1 h => exact controlMeaning_ite rfl rfl fun ht => by rwa [ht, ← hop 1 h] at hcw
  case h_2 h => exact controlMeaning_ite rfl rfl fun ⟨hh, ht⟩ => by rwa [hh, ht, ← hop 2 h] at hcw
  case h_3 h => exact controlMeaning_instr rfl rfl (hop 3 h ▸ hcw)
  case h_4 h => exact controlMeaning_instr rfl rfl (hop 4 h ▸ hcw)
  case h_5 h => exact controlMeaning_ite rfl rfl fun hz => hop 5 h ▸ controlWord_of_no_operands hz
  case h_6 h => exact controlMeaning_ite rfl rfl fun hz => hop 6 h ▸ controlWord_of_no_operands hz
  case h_7 h => exact controlMeaning_ite rfl rfl fun hz => hop 7 h ▸ controlWord_of_no_operands hz
  case h_8 => exact .inl rfl

theorem blockBytes_blockOfBytes (b0 b1 b2 b3 b4 b5 b6 b7 : Byte) :
    blockBytes (blockOfBytes b0 b1 b2 b3 b4 b5 b6 b7) = [b0, b1, b2, b3, b4, b5, b6, b7] := by
  simp (disch := omega) only [blockBytes, blockOfBytes, BitVec.extractLsb'_or, extractLsb'_placeBits_same,
    extractLsb'_placeBits_of_disjoint, BitVec.or_zero, BitVec.zero_or]

theorem blockBytes_injective {w w' : BitVec 64} (h : blockBytes w = blockBytes w') : w = w' :=
  eq_of_fields_eq [(56, 8), (48, 8), (40, 8), (32, 8), (24, 8), (16, 8), (8, 8), (0, 8)] (by decide)
    (by simpa [blockBytes] using h)

theorem decode_blockBytes (w : BitVec 64) : decode (blockBytes w) = .instr (decodeBlock w) :=
  congrArg (fun v => Decoded.instr (decodeBlock v)) (blockBytes_injective (blockBytes_blockOfBytes ..))

theorem decodeBlock_indivBits (b : IndivBlock) : decodeBlock (indivBits b) = .blkIndiv b := by
  simp (disch := omega) only [decodeBlock, indivOfBits, indivBits, BitVec.getLsbD_eq_extractLsb', BitVec.extractLsb'_or,
    extractLsb'_placeBits_same, extractLsb'_placeBits_of_disjoint, BitVec.or_zero, BitVec.zero_or,
    orientOfBit_orientBit]
  rfl

theorem decodeBlock_diffBits (b : DiffBlock) : decodeBlock (diffBits b) = .blkDiff b := by
  simp (disch := omega) only [decodeBlock, diffOfBits, diffBits, BitVec.getLsbD_eq_extractLsb', BitVec.extractLsb'_or,
    extractLsb'_placeBits_same, extractLsb'_placeBits_of_disjoint, BitVec.or_zero, BitVec.zero_or,
    orientOfBit_orientBit]
  rfl

/-- The fields of `BLK.INDIV` (R39, R40, R43) and bit 33 cover the block. -/
theorem indivOfBits_injective {w w' : BitVec 64} (hbit : w.extractLsb' 33 1 = w'.extractLsb' 33 1)
    (h : indivOfBits w = indivOfBits w') : w = w' := by
  refine eq_of_fields_eq [(60, 4), (56, 4), (52, 4), (48, 4), (44, 4), (40, 4), (37, 3), (34, 3), (33, 1), (32, 1),
    (16, 16), (0, 16)] (by decide) ?_
  simpa [indivOfBits, orientOfBit_inj, extractLsb'_one_eq_iff, hbit] using h

/-- The fields of `BLK.DIFF` (R39, R41, R43) and bit 33 cover the block. -/
theorem diffOfBits_injective {w w' : BitVec 64} (hbit : w.extractLsb' 33 1 = w'.extractLsb' 33 1)
    (h : diffOfBits w = diffOfBits w') : w = w' := by
  refine eq_of_fields_eq [(59, 5), (56, 3), (51, 5), (48, 3), (43, 5), (40, 3), (37, 3), (34, 3), (33, 1), (32, 1),
    (16, 16), (0, 16)] (by decide) ?_
  simpa [diffOfBits, orientOfBit_inj, extractLsb'_one_eq_iff, hbit] using h

/-- Two blocks that decode alike are of one format, and so equal (R39, R44). -/
theorem decodeBlock_injective {w w' : BitVec 64} (h : decodeBlock w = decodeBlock w') : w = w' := by
  unfold decodeBlock at h
  split at h <;> split at h
  · next hw hw' => exact diffOfBits_injective (extractLsb'_one_eq_iff.mpr (hw.trans hw'.symm)) (Instr.blkDiff.inj h)
  · cases h
  · cases h
  · next hw hw' =>
    refine indivOfBits_injective (extractLsb'_one_eq_iff.mpr ?_) (Instr.blkIndiv.inj h)
    rw [Bool.eq_false_of_not_eq_true hw, Bool.eq_false_of_not_eq_true hw']

theorem decode_encode (i : Instr) : decode (encode i) = .instr i := by
  cases i with
  | avg f h => simp [encode, decode, decodeControl]
  | qbase f => simp [encode, decode, decodeControl, halfOfBit]
  | msearch f h t => simp [encode, decode, decodeControl]
  | tbest f h t => simp [encode, decode, decodeControl]
  | selori => rfl
  | pack => rfl
  | ser => rfl
  | blkIndiv b => rw [encode, decode_blockBytes, decodeBlock_indivBits]
  | blkDiff b => rw [encode, decode_blockBytes, decodeBlock_diffBits]

/-- A list of bytes that decodes is a control word or the eight bytes of a block. -/
theorem decode_instr_cases {bs : List Byte} {i : Instr} (h : decode bs = .instr i) :
    (∃ cw, bs = [cw] ∧ decodeControl cw = .instr i) ∨ ∃ w, bs = blockBytes w ∧ decodeBlock w = i := by
  unfold decode at h
  split at h
  · exact .inl ⟨_, rfl, h⟩
  · exact .inr ⟨_, (blockBytes_blockOfBytes ..).symm, Decoded.instr.inj h⟩
  · cases h

/-- The encoding of what a block decodes to is the block's bytes: it decodes to the same, and only one block does. -/
theorem encode_decodeBlock (w : BitVec 64) : encode (decodeBlock w) = blockBytes w := by
  obtain ⟨v, hv⟩ : ∃ v, encode (decodeBlock w) = blockBytes v := by
    unfold decodeBlock
    split
    · exact ⟨_, rfl⟩
    · exact ⟨_, rfl⟩
  have hdec := decode_encode (decodeBlock w)
  rw [hv, decode_blockBytes] at hdec
  rw [hv, decodeBlock_injective (Decoded.instr.inj hdec)]

theorem encode_of_decodeControl {cw : Byte} {i : Instr} (h : decodeControl cw = .instr i) :
    i.WellFormed ∧ encode i = [cw] := by
  rcases controlMeaning_decodeControl cw with hr | ⟨j, hj, he, hd⟩
  · rw [hr] at h; cases h
  · cases h.symm.trans hd
    exact ⟨hj, he⟩

theorem encode_of_decode {bs : List Byte} {i : Instr} (h : decode bs = .instr i) : encode i = bs := by
  rcases decode_instr_cases h with ⟨cw, rfl, hd⟩ | ⟨w, rfl, rfl⟩
  · exact (encode_of_decodeControl hd).2
  · exact encode_decodeBlock w

theorem encode_of_wellFormed {i : Instr} (hi : i.WellFormed) : ∃ w, encode i = [w] := by
  cases i with
  | blkIndiv b => cases hi
  | blkDiff b => cases hi
  | _ => exact ⟨_, rfl⟩

end Sys2Proof
end

section
/-! SUPPORT. The base colors `QBASE` writes: the 3-bit delta (R42), the choice of the mode (R55), the color word of each
branch field by field (R40, R41, R56), and that base plus delta is a 5-bit number (R44, R59). -/

namespace Sys2Proof.Machine

open Sys2Proof.Safety

theorem inRange_iff {d : Int} : inRange d = true ↔ -4 ≤ d ∧ d ≤ 3 := by simp [inRange]

/-- `d mod 8` (R42). -/
theorem toNat_twos3 (d : Int) : ((twos3 d).toNat : Int) = d % 8 := by
  rw [twos3, BitVec.toNat_ofInt]
  exact Int.toNat_of_nonneg (Int.emod_nonneg d (by decide))

/-- A delta in range reads back from its field (R42). -/
theorem toInt_twos3 {d : Int} (hd : inRange d = true) : (twos3 d).toInt = d := by
  obtain ⟨hlo, hhi⟩ := inRange_iff.mp hd
  exact BitVec.toInt_ofInt_eq_self (by decide) hlo (by omega)

theorem q5_add_delta (c1 c2 : Byte) : ((q5 c1).toNat : Int) + delta c1 c2 = (q5 c2).toNat := add_sub_cancel _ _

/-- The second half's 5-bit channel is its own quantized average (R58). -/
theorem second5_delta (c1 c2 : Byte) : second5 (q5 c1) (delta c1 c2) = q5 c2 := by
  rw [second5, q5_add_delta, BitVec.ofInt_natCast, BitVec.ofNat_toNat, BitVec.setWidth_eq]

/-- The mode is differential exactly when the three deltas are in range (R55). -/
theorem chooseMode_eq_differential_iff {a1 a2 : Color} : chooseMode a1 a2 = .differential ↔
    inRange (delta a1.r a2.r) = true ∧ inRange (delta a1.g a2.g) = true ∧ inRange (delta a1.b a2.b) = true := by
  simp [chooseMode, and_assoc]

theorem chooseMode_eq_individual_iff {a1 a2 : Color} : chooseMode a1 a2 = .individual ↔
    ¬ (inRange (delta a1.r a2.r) = true ∧ inRange (delta a1.g a2.g) = true ∧ inRange (delta a1.b a2.b) = true) := by
  rw [← chooseMode_eq_differential_iff]
  cases chooseMode a1 a2 <;> simp

/-- The fields of the differential color word (R41). -/
theorem fields_diffHibase (a1 a2 : Color) :
    (diffHibase a1 a2).extractLsb' 27 5 = q5 a1.r ∧ (diffHibase a1 a2).extractLsb' 24 3 = twos3 (delta a1.r a2.r) ∧
    (diffHibase a1 a2).extractLsb' 19 5 = q5 a1.g ∧ (diffHibase a1 a2).extractLsb' 16 3 = twos3 (delta a1.g a2.g) ∧
    (diffHibase a1 a2).extractLsb' 11 5 = q5 a1.b ∧ (diffHibase a1 a2).extractLsb' 8 3 = twos3 (delta a1.b a2.b) ∧
    (diffHibase a1 a2).extractLsb' 0 8 = 2 := by
  have hbit : (placeField 1#1 1).extractLsb' 0 8 = 2 := by decide
  simp (disch := omega) only [diffHibase, BitVec.extractLsb'_or, extractLsb'_placeField_same,
    extractLsb'_placeField_of_disjoint, BitVec.or_zero, BitVec.zero_or, hbit, and_self]

/-- The fields of the individual color word (R40). -/
theorem fields_indivHibase (a1 a2 : Color) :
    (indivHibase a1 a2).extractLsb' 28 4 = q4 a1.r ∧ (indivHibase a1 a2).extractLsb' 24 4 = q4 a2.r ∧
    (indivHibase a1 a2).extractLsb' 20 4 = q4 a1.g ∧ (indivHibase a1 a2).extractLsb' 16 4 = q4 a2.g ∧
    (indivHibase a1 a2).extractLsb' 12 4 = q4 a1.b ∧ (indivHibase a1 a2).extractLsb' 8 4 = q4 a2.b ∧
    (indivHibase a1 a2).extractLsb' 0 8 = 0 := by
  simp (disch := omega) only [indivHibase, BitVec.extractLsb'_or, extractLsb'_placeField_same,
    extractLsb'_placeField_of_disjoint, BitVec.or_zero, BitVec.zero_or]
  decide

/-- The clause of `DeltaSumsInRange` about one orientation's mode and color word. -/
def DeltaSumsWord (m : Mode) (w : Word32) : Prop :=
  m = .differential → ∀ pos ∈ [24, 16, 8],
    0 ≤ ((w.extractLsb' (pos + 3) 5).toNat : Int) + (w.extractLsb' pos 3).toInt ∧
    ((w.extractLsb' (pos + 3) 5).toNat : Int) + (w.extractLsb' pos 3).toInt ≤ 31

/-- The first half's channel plus a delta in range is the second half's channel, a 5-bit number. -/
theorem q5_add_toInt_twos3_delta {c1 c2 : Byte} (hd : inRange (delta c1 c2) = true) :
    0 ≤ ((q5 c1).toNat : Int) + (twos3 (delta c1 c2)).toInt ∧
      ((q5 c1).toNat : Int) + (twos3 (delta c1 c2)).toInt ≤ 31 := by
  rw [toInt_twos3 hd, q5_add_delta]
  have := (q5 c2).isLt
  omega

theorem deltaSumsWord_qbase (a1 a2 : Color) : DeltaSumsWord (chooseMode a1 a2) (hibaseOf a1 a2) := by
  intro hm
  obtain ⟨hr, hg, hb⟩ := chooseMode_eq_differential_iff.mp hm
  obtain ⟨fr, fdr, fg, fdg, fb, fdb, -⟩ := fields_diffHibase a1 a2
  simp only [hibaseOf, hm, List.forall_mem_cons, fr, fdr, fg, fdg, fb, fdb]
  exact ⟨q5_add_toInt_twos3_delta hr, q5_add_toInt_twos3_delta hg, q5_add_toInt_twos3_delta hb, by simp⟩

theorem registerInvariant_deltaSumsInRange : RegisterInvariant DeltaSumsInRange :=
  registerInvariant_quantizerHolds (P := fun m w _ _ => DeltaSumsWord m w) (fun h => by cases h) deltaSumsWord_qbase

end Sys2Proof.Machine
end

section
/-! SUPPORT. The block `PACK` assembles, read back (R39 to R41, R43, R80 to R82). -/

namespace Sys2Proof.Machine

open Sys2Proof.Safety

/-- Zeros of a word at a range of positions, at a part of the range. -/
theorem extractLsb'_eq_zero_of_within {n start len pos w : Nat} {x : BitVec n} (hz : x.extractLsb' start len = 0#len)
    (hlo : start ≤ pos) (hhi : pos + w ≤ start + len) : x.extractLsb' pos w = 0#w := by
  ext j hj
  have hbit := congrArg (·.getLsbD (pos - start + j)) hz
  simpa [show pos - start + j < len by omega, show start + (pos - start + j) = pos + j by omega, hj] using hbit

/-- `HIGH` as fields placed in a color word (R80, R81). -/
theorem packHigh_eq_placeField (w : Word32) (table1 table2 : BitVec 3) (f : Orient) :
    packHigh w table1 table2 f = w ||| placeField table1 5 ||| placeField table2 2 ||| placeField (orientBit f) 0 := by
  simp [packHigh, placeField]

/-- The color fields of `HIGH` are those of the color word (R81). -/
theorem extractLsb'_packHigh_color (w : Word32) (table1 table2 : BitVec 3) (f : Orient) {pos len : Nat}
    (hpos : 8 ≤ pos) : (packHigh w table1 table2 f).extractLsb' pos len = w.extractLsb' pos len := by
  simp (disch := omega) only [packHigh_eq_placeField, BitVec.extractLsb'_or, extractLsb'_placeField_of_disjoint,
    BitVec.or_zero]

/-- The low byte of `HIGH` over a shaped color word: the two tables, the mode and the flip bit (R39, R82). -/
theorem fields_packHigh {m : Mode} {w : Word32} (hw : ShapedWord m w) (table1 table2 : BitVec 3) (f : Orient) :
    (packHigh w table1 table2 f).extractLsb' 5 3 = table1 ∧ (packHigh w table1 table2 f).extractLsb' 2 3 = table2 ∧
    (packHigh w table1 table2 f).extractLsb' 1 1 = modeBit m ∧
    (packHigh w table1 table2 f).extractLsb' 0 1 = orientBit f := by
  obtain ⟨htables, hflip, hmode⟩ := hw
  have hz1 : w.extractLsb' 5 3 = 0#3 := extractLsb'_eq_zero_of_within htables (by decide) (by decide)
  have hz2 : w.extractLsb' 2 3 = 0#3 := extractLsb'_eq_zero_of_within htables (by decide) (by decide)
  simp (disch := omega) only [packHigh_eq_placeField, BitVec.extractLsb'_or, extractLsb'_placeField_same,
    extractLsb'_placeField_of_disjoint, hz1, hz2, hflip, hmode, BitVec.or_zero, BitVec.zero_or, and_self,
    BitVec.ofNat_eq_ofNat]

/-- The block of a winner whose color word is shaped (R39 to R41, R43). -/
theorem decodeBlock_pack {s : State} (hs : HibaseShape s) :
    decodeBlock (packHigh (s.hibase.get s.sel) (getBest s s.sel .h0).table (getBest s s.sel .h1).table s.sel ++
        ((getBest s s.sel .h0).low ||| (getBest s s.sel .h1).low)) =
      match s.diff.get s.sel with
      | .differential => .blkDiff (diffWinner s)
      | .individual => .blkIndiv (indivWinner s) := by
  obtain ⟨htable1, htable2, hmode, hflip⟩ :=
    fields_packHigh (hs s.sel) (getBest s s.sel .h0).table (getBest s s.sel .h1).table s.sel
  simp (disch := omega) only [decodeBlock, diffOfBits, indivOfBits, BitVec.getLsbD_eq_extractLsb',
    BitVec.extractLsb'_append_eq_of_le, BitVec.extractLsb'_append_eq_of_add_le, Nat.reduceSub,
    extractLsb'_packHigh_color, htable1, htable2, hmode, hflip, orientOfBit_orientBit]
  cases s.diff.get s.sel <;> rfl

end Sys2Proof.Machine
end

section
/-! SUPPORT. `ENCODE` of a tile with no valid pixel (R44, R96). -/

namespace Sys2Proof.Machine

section
variable (tab : Config.ModTab) (px : Pixel → Color) (f : Orient) (h : Half)

/-- The average over no valid pixel is black (R46, R96). -/
@[simp] theorem averageHalf_zero : averageHalf px 0#16 f h = .zero := by
  simp [averageHalf, channelSum, roundEighth, Color.zero]

@[simp] theorem tileScore_zero (t : BitVec 3) : tileScore tab px 0#16 f h t = 0 := searchScore_zero ..

@[simp] theorem tileLow_zero (t : BitVec 3) : tileLow tab px 0#16 f h t = 0 := searchLow_zero ..

/-- Eight equal scores select table 0 (R74). -/
@[simp] theorem tileTable_zero : tileTable tab px 0#16 f h = 0 :=
  leastTable_eq (fun u => by simp) fun _ _ => Nat.zero_le _

/-- Equal totals select the orientation that is not flipped (R75). -/
@[simp] theorem tileFlip_zero : tileFlip tab px 0#16 = .f0 := by simp [tileFlip, tileTotal]

/-- The block of no valid pixel: differential, black, all else zero (R44). -/
theorem encodePixels_zero : encodePixels tab px 0#16 = [0x00, 0x00, 0x00, 0x02, 0x00, 0x00, 0x00, 0x00] := by
  have hhigh : packHigh (hibaseOf .zero .zero) 0 0 .f0 = 2 := by decide
  simp only [encodePixels, tileHigh, tileLowWord, tileFlip_zero, tileTable_zero, tileLow_zero, averageHalf_zero, hhigh]
  rfl

end

end Sys2Proof.Machine
end

section
/-! SUPPORT. The defined and the reserved control words (R36, R37), and that the ROM is the order of work, encoded
(R92). -/

namespace Sys2Proof.Machine

open Sys2Proof.Safety

/-- The rows of R36 are disjoint and select what the decoder does not reserve (R37): a check of the 256 words. -/
theorem rowsSelected_eq (w : Byte) : rowsSelected w = if decode [w] = .reserved w then 0 else 1 := by
  revert w
  decide +kernel

theorem rowsSelected_eq_zero_iff {w : Byte} : rowsSelected w = 0 ↔ decode [w] = .reserved w := by
  simp [rowsSelected_eq]

theorem rowsSelected_eq_one_iff {w : Byte} :
    rowsSelected w = 1 ↔ ∃ i, i.isMicroOp = true ∧ decode [w] = .instr i := by
  rw [rowsSelected_eq]
  rcases controlMeaning_decodeControl w with hr | ⟨i, hi, -, hd⟩
  · simp [decode, hr]
  · simp [decode, hd, hi]

/-- The ROM is the order of work, encoded (R92). -/
theorem flatMap_encode_romProgram : romProgram.flatMap encode = controlRom := by decide +kernel

/-- The order of work has every micro-operation (R36, R92). -/
theorem mem_romProgram_iff {i : Instr} : i ∈ romProgram ↔ i.WellFormed := by
  constructor
  · revert i
    decide +kernel
  · intro hi
    cases i with
    | avg f h => cases f <;> cases h <;> simp [romProgram]
    | qbase f => cases f <;> simp [romProgram]
    | msearch f h t => cases f <;> cases h <;> simp [romProgram, searchProgram, mem_allTables]
    | tbest f h t => cases f <;> cases h <;> simp [romProgram, searchProgram, mem_allTables]
    | selori => simp [romProgram]
    | pack => simp [romProgram]
    | ser => simp [romProgram]
    | blkIndiv b => cases hi
    | blkDiff b => cases hi

/-- The ROM's words are the defined ones (R37, R92). -/
theorem mem_controlRom_iff {w : Byte} : w ∈ controlRom ↔ rowsSelected w = 1 := by
  rw [rowsSelected_eq_one_iff, ← flatMap_encode_romProgram, List.mem_flatMap]
  refine exists_congr fun i => ?_
  rw [mem_romProgram_iff]
  refine and_congr_right fun hi => ⟨fun hw => ?_, fun hd => ?_⟩
  · obtain ⟨v, hv⟩ := encode_of_wellFormed hi
    rw [hv, List.mem_singleton] at hw
    rw [hw, ← hv, decode_encode]
  · rw [encode_of_decode hd]
    exact List.mem_singleton_self w

/-- A reserved word is refused over any ROM and any dispatch (R37). -/
theorem sequencerStep_of_reserved {dispatch : Dispatcher} {rom : List Byte} {s : State} {w : Byte}
    (hw : rom[s.seq.toNat]? = some w) (hd : decode [w] = .reserved w) :
    sequencerStep dispatch rom s = .refused (.reservedControlWord w) := by
  simp only [sequencerStep, hw, hd]

end Sys2Proof.Machine
end

section
/-! The statements about the encoding (30_encoding.md). -/

namespace Sys2Proof.Proofs

open Sys2Proof.Machine Sys2Proof.Safety

/-- Settles O2, by the cases of an instruction. -/
theorem decodeOfEncode : Obligations.DecodeOfEncode := decode_encode

/-- Settles O22: `QBASE` establishes it, since base plus delta is the other half's 5-bit channel, and nothing else
writes the registers it speaks of. -/
theorem stepKeepsDeltaSumsInRange : Obligations.StepKeepsDeltaSumsInRange :=
  fun _ _ hs hst => registerInvariant_deltaSumsInRange.step_keeps hs hst

/-- Settles O3: a control word is its fields, and no two blocks decode alike. -/
theorem encodeOfDecode : Obligations.EncodeOfDecode := fun _ _ h => encode_of_decode h

/-- Settles O38: the deltas choose the branch, whose color word is read field by field. -/
theorem differentialBaseColors : Obligations.DifferentialBaseColors := by
  rintro s f _ _ rfl rfl hr hg hb
  have hm := chooseMode_eq_differential_iff.mpr ⟨hr, hg, hb⟩
  refine ⟨_, exec_qbase f s, ?_⟩
  simpa [hm, baseFirst, baseSecond, hibaseOf, diffFirst, diffSecond, second5_delta] using
    fields_diffHibase (getAvg s f .h0) (getAvg s f .h1)

/-- Settles O39, as O38 in the other branch. -/
theorem individualBaseColors : Obligations.IndividualBaseColors := by
  rintro s f _ _ rfl rfl hout
  have hm := chooseMode_eq_individual_iff.mpr hout
  refine ⟨_, exec_qbase f s, ?_⟩
  simpa [hm, baseFirst, baseSecond, hibaseOf, indivColor] using fields_indivHibase (getAvg s f .h0) (getAvg s f .h1)

/-- Settles O50: the bytes of the two words are those of one block, whose fields lie in `HIGH` or in `LOW`. -/
theorem packedBlockDecodes : Obligations.PackedBlockDecodes := by
  intro s hs
  refine ⟨_, exec_pack s, ?_⟩
  rw [wordBytes_append_wordBytes, decode_blockBytes]
  exact congrArg Decoded.instr (decodeBlock_pack hs)

/-- Settles O58: no sum and no score counts a pixel, so black, table 0 and no flip are chosen, under any table. -/
theorem emptyMaskEncoding : Obligations.EmptyMaskEncoding := fun tile => encodePixels_zero modTab (tilePixel tile)

/-- Settles O1: each clause is the decoder run on written bytes. -/
theorem controlWordsDecode : Obligations.ControlWordsDecode :=
  ⟨rfl, rfl, rfl, rfl, rfl, rfl, rfl, rfl, ⟨_, rfl, by decide, by decide⟩, ⟨_, rfl, by decide, by decide⟩⟩

/-- Settles O4: the rows are checked against the decoder word by word; the ROM is the order of work, encoded, and so
holds each defined word; the refusal is the sequencer's case of a reserved word. -/
theorem reservedWordsRefused : Obligations.ReservedWordsRefused := by
  refine ⟨fun w => ?_, fun w => rowsSelected_eq_zero_iff, fun w => rowsSelected_eq_one_iff, by decide +kernel,
    by decide +kernel, by decide +kernel, fun w => mem_controlRom_iff,
    fun dispatch rom s w hw hz => sequencerStep_of_reserved hw (rowsSelected_eq_zero_iff.mp hz)⟩
  rw [rowsSelected_eq]
  split
  · exact Nat.zero_le 1
  · exact Nat.le_refl 1

/-- Settles O35: the field is the delta modulo 8, whose 3-bit two's-complement value is the delta. -/
theorem deltaFieldReadsBack : Obligations.DeltaFieldReadsBack := by
  intro d hlo hhi
  have hd := inRange_iff.mpr ⟨hlo, hhi⟩
  exact ⟨toNat_twos3 d, toInt_twos3 hd, fun p => second5_eq_add_signExtend p hd⟩

/-- Settles O54: `exec` refuses both formats, and a control word that decodes is the encoding of a micro-operation. -/
theorem outputFormatsAreNoOperations : Obligations.OutputFormatsAreNoOperations :=
  ⟨exec_blkIndiv, exec_blkDiff, fun _ _ hi => (encode_of_decodeControl hi).1⟩

end Sys2Proof.Proofs
end

section
/-! SUPPORT. What a micro-operation writes is a function of what it reads (R46, R56, R69, R73, R75, R80, R87), one lemma
an operation, over two states that agree on the registers it reads. -/

namespace Sys2Proof.Safety

open Sys2Proof.Machine

section
variable {s s' : State}

/-- The 48 bytes of `TILE` are all that its pixels read (R24). -/
theorem readPixel_of_sameReg (htile : SameReg s s' .tile) : readPixel s.tile = readPixel s'.tile := by
  funext p
  have hp := pixelNumber_lt p
  have hread (c : Nat) (hc : c < 3) :
      Memory.read s.tile (3 * pixelNumber p + c) = Memory.read s'.tile (3 * pixelNumber p + c) :=
    htile _ (show _ < 48 by omega)
  rw [readPixel, readPixel, Color.mk.injEq]
  exact ⟨hread 0 (by decide), hread 1 (by decide), hread 2 (by decide)⟩

theorem totalOf_of_sameReg {f : Orient} (h0 : SameReg s s' (.best f .h0)) (h1 : SameReg s s' (.best f .h1)) :
    totalOf s f = totalOf s' f :=
  congrArg₂ (fun b b' : Best => b.score + b'.score) h0 h1

end

/-- A micro-operation completes, and what it writes depends on nothing but what it reads. -/
def ReadsOnly (i : Instr) : Prop :=
  ∀ s s' : State, (∀ r ∈ reads i, SameReg s s' r) →
    ∃ t t', exec i s = .next t ∧ exec i s' = .next t' ∧ ∀ r ∈ writes i, SameReg t t' r

theorem readsOnly_avg (f : Orient) (h : Half) : ReadsOnly (.avg f h) := by
  intro s s' hreads
  obtain ⟨htile, hmask : s.mask = s'.mask⟩ := List.forall_iff_forall_mem.mpr hreads
  refine ⟨_, _, exec_avg f h s, exec_avg f h s', ?_⟩
  simp [writes, SameReg, readPixel_of_sameReg htile, hmask]

theorem readsOnly_qbase (f : Orient) : ReadsOnly (.qbase f) := by
  intro s s' hreads
  obtain ⟨h0 : getAvg s f .h0 = getAvg s' f .h0, h1 : getAvg s f .h1 = getAvg s' f .h1⟩ :=
    List.forall_iff_forall_mem.mpr hreads
  refine ⟨_, _, exec_qbase f s, exec_qbase f s', ?_⟩
  simp [writes, SameReg, h0, h1]

theorem readsOnly_msearch (f : Orient) (h : Half) (n : BitVec 3) : ReadsOnly (.msearch f h n) := by
  intro s s' hreads
  obtain ⟨htile, hmask : s.mask = s'.mask, hbase : getBase s f h = getBase s' f h⟩ :=
    List.forall_iff_forall_mem.mpr hreads
  refine ⟨_, _, exec_msearch f h n s, exec_msearch f h n s', ?_⟩
  simp [writes, SameReg, msearchWith, readPixel_of_sameReg htile, hmask, hbase]

/-- Table 0 is stored with no comparison; any other is compared with `BEST[f][h]`, which both states then keep or both
replace (R73). -/
theorem readsOnly_tbest (f : Orient) (h : Half) (n : BitVec 3) : ReadsOnly (.tbest f h n) := by
  intro s s' hreads
  refine ⟨_, _, exec_tbest f h n s, exec_tbest f h n s', ?_⟩
  by_cases hn : n = 0
  · rw [reads, if_pos hn, List.forall_mem_singleton] at hreads
    have hcand : s.cand = s'.cand := hreads
    simp [writes, SameReg, hn, hcand]
  · rw [reads, if_neg hn] at hreads
    obtain ⟨hcand : s.cand = s'.cand, hbest : getBest s f h = getBest s' f h⟩ := List.forall_iff_forall_mem.mpr hreads
    rw [hcand, hbest]
    split
    · simp [writes, SameReg]
    · simpa [writes, SameReg] using hbest

theorem readsOnly_selori : ReadsOnly .selori := by
  intro s s' hreads
  obtain ⟨h00, h01, h10, h11⟩ := List.forall_iff_forall_mem.mpr hreads
  refine ⟨_, _, exec_selori s, exec_selori s', ?_⟩
  simp [writes, SameReg, totalOf_of_sameReg h00 h01, totalOf_of_sameReg h10 h11]

/-- `PACK` reads the registers of the orientation that `SEL` names (R80). -/
theorem readsOnly_pack : ReadsOnly .pack := by
  intro s s' hreads
  obtain ⟨hsel : s.sel = s'.sel, hh0, hh1, h00, h01, h10, h11⟩ := List.forall_iff_forall_mem.mpr hreads
  have hhibase (f : Orient) : s.hibase.get f = s'.hibase.get f := by
    cases f
    · exact hh0
    · exact hh1
  have hbest (f : Orient) (h : Half) : getBest s f h = getBest s' f h := by
    cases f <;> cases h
    · exact h00
    · exact h01
    · exact h10
    · exact h11
  refine ⟨_, _, exec_pack s, exec_pack s', ?_⟩
  simp [writes, SameReg, hsel, hhibase, hbest]

/-- `SER` writes every byte of `OUT`, so none of the former ones is left (R87). -/
theorem readsOnly_ser : ReadsOnly .ser := by
  intro s s' hreads
  obtain ⟨hhigh : s.high = s'.high, hlow : s.low = s'.low⟩ := List.forall_iff_forall_mem.mpr hreads
  refine ⟨_, _, exec_ser s, exec_ser s', ?_⟩
  rw [writes, List.forall_mem_singleton]
  intro a ha
  have hin : 0 ≤ a ∧ a < 0 + (wordBytes s'.high ++ wordBytes s'.low).length :=
    ⟨Nat.zero_le a, by simpa [wordBytes] using ha⟩
  rw [out_of_exec_ser (exec_ser s), out_of_exec_ser (exec_ser s'), hhigh, hlow, read_writeBytes, read_writeBytes,
    if_pos hin, if_pos hin]

end Sys2Proof.Safety
end

section
/-! SUPPORT. The halves as mask constants and index planes, and the sums of the averager over pixel numbers (R45 to
R47). -/

namespace Sys2Proof.Machine

open Sys2Proof.Safety

/-- The pixel numbers of a half are the bits of its mask constant, in rising order (R24, R45). -/
theorem map_pixelNumber_half (f : Orient) (h : Half) :
    (half f h).map pixelNumber = (List.range 16).filter fun i => (halfMask f h).getLsbD i := by
  cases f <;> cases h <;> decide

theorem pixelNumber_injective : Function.Injective pixelNumber := by
  rintro ⟨x, y⟩ ⟨x', y'⟩ hn
  simp only [pixelNumber] at hn
  simp only [Pixel.mk.injEq, Fin.ext_iff]
  omega

theorem mem_half_iff_valid {f : Orient} {h : Half} {p : Pixel} : p ∈ half f h ↔ valid (halfMask f h) p = true := by
  rw [← List.mem_map_of_injective pixelNumber_injective, map_pixelNumber_half, List.mem_filter, List.mem_range]
  exact and_iff_right (pixelNumber_lt p)

theorem mem_half_h1 {f : Orient} {p : Pixel} : p ∈ half f .h1 ↔ p ∉ half f .h0 := by
  cases f <;> simp only [mem_half, not_lt]

theorem val_mem_first_pair_iff (i : Fin 4) : i.val ∈ [0, 1] ↔ i.val < 2 := by
  revert i
  decide

theorem val_mem_second_pair_iff (i : Fin 4) : i.val ∈ [2, 3] ↔ 2 ≤ i.val := by
  revert i
  decide

/-- The index bits of a half are the two of each of its pixels (R43, R71). -/
theorem getLsbD_halfPlanes (f : Orient) (h : Half) (p : Pixel) :
    ((halfPlanes f h).getLsbD (pixelPos p) = true ↔ p ∈ half f h) ∧
      ((halfPlanes f h).getLsbD (16 + pixelPos p) = true ↔ p ∈ half f h) := by
  obtain ⟨x, y⟩ := p
  cases f <;> cases h <;> revert x y <;> decide

theorem map_pixelNumber_validPixels (mask : BitVec 16) (f : Orient) (h : Half) :
    (validPixels mask f h).map pixelNumber =
      (List.range 16).filter fun i => mask.getLsbD i && (halfMask f h).getLsbD i := by
  have hvalid : valid mask = (fun i => mask.getLsbD i) ∘ pixelNumber := rfl
  rw [validPixels, hvalid, ← List.filter_map, map_pixelNumber_half, List.filter_filter]

/-- The averager's sum of a channel, over pixel numbers, when the channel is byte `c` of a pixel (R24, R46). -/
theorem channelSum_eq_maskedSum {s : State} {chan : Color → Byte} {c : Nat}
    (hchan : ∀ p, chan (readPixel s.tile p) = Memory.read s.tile (3 * pixelNumber p + c)) (f : Orient) (h : Half) :
    channelSum (readPixel s.tile) s.mask f h chan = maskedSum s f h c := by
  calc channelSum (readPixel s.tile) s.mask f h chan
      = (((validPixels s.mask f h).map pixelNumber).map fun i => (Memory.read s.tile (3 * i + c)).toNat).sum := by
        simp [channelSum, hchan, Function.comp_def]
    _ = maskedSum s f h c := by
        simp [map_pixelNumber_validPixels, maskedSum, List.sum_map_ite]

/-- Eight bytes sum to at most 2040 (R47). -/
theorem channelSum_le (px : Pixel → Color) (mask : BitVec 16) (f : Orient) (h : Half) (chan : Color → Byte) :
    channelSum px mask f h chan ≤ 2040 := by
  unfold channelSum
  calc ((validPixels mask f h).map fun p => (chan (px p)).toNat).sum
      ≤ ((validPixels mask f h).map fun p => (chan (px p)).toNat).length * 255 := by
        refine List.sum_le_card_nsmul _ _ fun n hn => ?_
        obtain ⟨p, -, rfl⟩ := List.mem_map.mp hn
        exact Nat.le_of_lt_succ (chan (px p)).isLt
    _ ≤ 8 * 255 := by
        rw [List.length_map]
        exact Nat.mul_le_mul_right _ (length_validPixels_le mask f h)

/-- Below the bound of R47 the average fits its byte. -/
theorem toNat_roundEighth {n : Nat} (hn : n ≤ 2040) : (roundEighth n).toNat = (n + 4) / 8 := by
  rw [roundEighth, BitVec.toNat_ofNat, Nat.shiftRight_eq_div_pow]
  omega

theorem toNat_roundEighth_channelSum {s : State} {chan : Color → Byte} {c : Nat}
    (hchan : ∀ p, chan (readPixel s.tile p) = Memory.read s.tile (3 * pixelNumber p + c)) (f : Orient) (h : Half) :
    (roundEighth (channelSum (readPixel s.tile) s.mask f h chan)).toNat = (maskedSum s f h c + 4) / 8 := by
  rw [toNat_roundEighth (channelSum_le ..), channelSum_eq_maskedSum hchan]

end Sys2Proof.Machine
end

section
/-! The statements about the averager and the registers operations read (40_subblock_averager.md). -/

namespace Sys2Proof.Proofs

open Sys2Proof.Machine Sys2Proof.Safety

/-- Settles O27, by the cases of a micro-operation. -/
theorem operationsReadOnlyTheirOperands : Obligations.OperationsReadOnlyTheirOperands := by
  intro i s s' hi
  cases i with
  | avg f h => exact readsOnly_avg f h s s'
  | qbase f => exact readsOnly_qbase f s s'
  | msearch f h n => exact readsOnly_msearch f h n s s'
  | tbest f h n => exact readsOnly_tbest f h n s s'
  | selori => exact readsOnly_selori s s'
  | pack => exact readsOnly_pack s s'
  | ser => exact readsOnly_ser s s'
  | blkIndiv b => cases hi
  | blkDiff b => cases hi

/-- Settles O32: the valid pixels of a half are the set bits of the masked mask constant, and their sum is at most
2040. -/
theorem averageIsRoundedEighth : Obligations.AverageIsRoundedEighth := by
  intro s f h
  refine ⟨_, exec_avg f h s, ?_⟩
  rw [getAvg_setAvg, if_pos ⟨rfl, rfl⟩]
  exact ⟨toNat_roundEighth_channelSum (fun _ => rfl) f h, toNat_roundEighth_channelSum (fun _ => rfl) f h,
    toNat_roundEighth_channelSum (fun _ => rfl) f h⟩

/-- Settles O31: a half is its mask constant by pixel numbers, and the second half of an orientation is the
complement of the first. -/
theorem halvesArePartition : Obligations.HalvesArePartition := by
  refine ⟨fun f h p => mem_half_iff_valid, fun f p => ?_, fun h p => ?_, fun h p => ?_,
    fun f h => ⟨length_half f h, nodup_half f h⟩, getLsbD_halfPlanes⟩
  · rw [mem_half_h1]
    exact ⟨Classical.em _, fun hp => hp.2 hp.1⟩
  · cases h with
    | h0 => exact (mem_half .f0 .h0 p).trans (val_mem_first_pair_iff p.x).symm
    | h1 => exact (mem_half .f0 .h1 p).trans (val_mem_second_pair_iff p.x).symm
  · cases h with
    | h0 => exact (mem_half .f1 .h0 p).trans (val_mem_first_pair_iff p.y).symm
    | h1 => exact (mem_half .f1 .h1 p).trans (val_mem_second_pair_iff p.y).symm

end Sys2Proof.Proofs
end

section
/-! SUPPORT. The quantizers as rounding (R50 to R52), the expansions as repeated bits (R53, R54), and the registers of
one orientation after `QBASE` (R55 to R58). -/

namespace Sys2Proof.Machine

/-- The integer nearest to `n/255` is unique, 255 being odd, and is `(2n + 255) div 510` (R50, R51). -/
theorem nearest_div_255_iff {q n : Nat} :
    2 * (255 * (q : Int) - n).natAbs ≤ 255 ↔ q = (2 * n + 255) / 510 := by omega

theorem toNat_q5 (c : Byte) : (q5 c).toNat = (2 * (31 * c.toNat) + 255) / 510 := by
  have := c.isLt
  rw [q5, BitVec.toNat_ofNat, Nat.mod_eq_of_lt (by omega), Nat.mul_assoc, Nat.mul_comm c.toNat]

theorem toNat_q4 (c : Byte) : (q4 c).toNat = (2 * (15 * c.toNat) + 255) / 510 := by
  have := c.isLt
  rw [q4, BitVec.toNat_ofNat, Nat.mod_eq_of_lt (by omega), Nat.mul_assoc, Nat.mul_comm c.toNat]

theorem toNat_e5 (q : BitVec 5) : (e5 q).toNat = 8 * q.toNat + q.toNat / 4 := by
  have := q.isLt
  rw [e5, BitVec.toNat_ofNat]
  omega

theorem toNat_e4 (q : BitVec 4) : (e4 q).toNat = 17 * q.toNat := by
  have := q.isLt
  rw [e4, BitVec.toNat_ofNat]
  omega

/-- Concatenated fields as a number: the high field's weight is `2 ^ w`. -/
theorem toNat_append_eq_add {v w : Nat} (x : BitVec v) (y : BitVec w) : (x ++ y).toNat = 2 ^ w * x.toNat + y.toNat := by
  rw [BitVec.toNat_append, ← Nat.shiftLeft_add_eq_or_of_lt y.isLt, Nat.shiftLeft_eq, Nat.mul_comm]

theorem e5_eq_append (q : BitVec 5) : e5 q = q ++ q.extractLsb' 2 3 := by
  have := q.isLt
  apply BitVec.eq_of_toNat_eq
  rw [toNat_e5, toNat_append_eq_add, BitVec.extractLsb'_toNat, Nat.shiftRight_eq_div_pow]
  omega

theorem e4_eq_append (q : BitVec 4) : e4 q = q ++ q := by
  apply BitVec.eq_of_toNat_eq
  rw [toNat_e4, toNat_append_eq_add]
  omega

/-- `QBASE` completes, and these are the registers of its orientation (R56). -/
theorem exec_qbase_registers (f : Orient) (s : State) : ∃ t, exec (.qbase f) s = .next t ∧
    t.diff.get f = chooseMode (getAvg s f .h0) (getAvg s f .h1) ∧
    t.hibase.get f = hibaseOf (getAvg s f .h0) (getAvg s f .h1) ∧
    getBase t f .h0 = baseFirst (getAvg s f .h0) (getAvg s f .h1) ∧
    getBase t f .h1 = baseSecond (getAvg s f .h0) (getAvg s f .h1) :=
  ⟨_, exec_qbase f s, by simp⟩

/-- Equal averages are in range of each other (R57). -/
theorem chooseMode_self (a : Color) : chooseMode a a = .differential := by
  simp [chooseMode_eq_differential_iff, delta, inRange_iff]

/-- Bit 1 of the color word is the mode (R13). -/
theorem getLsbD_one_hibaseOf {a1 a2 : Color} (hm : chooseMode a1 a2 = .differential) :
    (hibaseOf a1 a2).getLsbD 1 = true := by
  obtain ⟨-, -, hbit⟩ := shapedWord_qbase a1 a2
  rw [BitVec.getLsbD_eq_extractLsb', hbit, hm]
  rfl

/-- In the differential branch the second half's base color is its own quantized average, expanded (R58). -/
theorem diffSecond_eq (a1 a2 : Color) : diffSecond a1 a2 = ⟨e5 (q5 a2.r), e5 (q5 a2.g), e5 (q5 a2.b)⟩ := by
  simp only [diffSecond, second5_delta]

end Sys2Proof.Machine
end

section
/-! The statements about the base-color quantizer (41_base_color_quantizer.md). -/

namespace Sys2Proof.Proofs

open Sys2Proof.Machine

/-- Settles O36: the mode is differential exactly when the three deltas are in range, and equal averages have zero
deltas. -/
theorem differentialWheneverRepresentable : Obligations.DifferentialWheneverRepresentable := by
  intro s f
  obtain ⟨t, hnext, hdiff, -⟩ := exec_qbase_registers f s
  refine ⟨t, hnext, ?_, fun heq => ?_⟩
  · rw [hdiff, chooseMode_eq_differential_iff]
    exact and_congr inRange_iff (and_congr inRange_iff inRange_iff)
  · rw [hdiff, heq]
    exact chooseMode_self _

/-- Settles O37: base plus delta is the second half's own 5-bit channel. -/
theorem differentialRoundTrip : Obligations.DifferentialRoundTrip := by
  rintro s f a1 a2 rfl rfl
  obtain ⟨t, hnext, hdiff, hhibase, -, hbase⟩ := exec_qbase_registers f s
  refine ⟨t, hnext, fun hr hg hb => ?_, fun ht => ?_⟩
  · have hm := chooseMode_eq_differential_iff.mpr ⟨hr, hg, hb⟩
    rw [hdiff, hhibase]
    exact ⟨hm, getLsbD_one_hibaseOf hm⟩
  · have hsecond : getBase t f .h1 = diffSecond (getAvg s f .h0) (getAvg s f .h1) := by
      rw [hbase, baseSecond, ← hdiff, ht]
    exact ⟨⟨second5_delta _ _, second5_delta _ _, second5_delta _ _⟩, hsecond, hsecond.trans (diffSecond_eq _ _)⟩

/-- Settles O33: each quantizer is the nearest integer to a number of 255ths. -/
theorem quantizersRoundToNearest : Obligations.QuantizersRoundToNearest := by
  refine ⟨fun c q => ?_, fun c q => ?_⟩
  · rw [← BitVec.toNat_inj, toNat_q5]
    exact_mod_cast nearest_div_255_iff (n := 31 * c.toNat)
  · rw [← BitVec.toNat_inj, toNat_q4]
    exact_mod_cast nearest_div_255_iff (n := 15 * c.toNat)

/-- Settles O34: the arithmetic of each expansion, and its bits as two fields. -/
theorem expandReplicatesBits : Obligations.ExpandReplicatesBits :=
  ⟨fun q => ⟨toNat_e5 q, e5_eq_append q⟩, fun q => ⟨toNat_e4 q, e4_eq_append q⟩⟩

end Sys2Proof.Proofs
end

section
/-! SUPPORT. The bounds of the scores and totals (R68): a search's score is bounded by itself, a best score is a former
candidate's, and a total is the sum of two best scores. -/

namespace Sys2Proof.Machine

open Sys2Proof.Safety

/-- Within the bound of R68 a total is the exact sum of its two best scores: 24 bits hold it. -/
theorem toNat_totalOf {s : State} (hbest : ∀ f h, (getBest s f h).score.toNat ≤ 5202000) (f : Orient) :
    (totalOf s f).toNat = (getBest s f .h0).score.toNat + (getBest s f .h1).score.toNat := by
  have h0 := hbest f .h0
  have h1 := hbest f .h1
  rw [totalOf, BitVec.toNat_add]
  omega

theorem totalOf_le {s : State} (hbest : ∀ f h, (getBest s f h).score.toNat ≤ 5202000) (f : Orient) :
    (totalOf s f).toNat ≤ 10404000 := by
  rw [toNat_totalOf hbest]
  exact Nat.add_le_add (hbest f .h0) (hbest f .h1)

/-- The registers `SELORI` writes (R75). -/
theorem total_exec_selori {s u : State} (hx : exec .selori s = .next u) (f : Orient) :
    u.total.get f = totalOf s f := by
  cases hx
  cases f <;> rfl

theorem exec_keeps_scoresBounded {i : Instr} {s u : State} (hs : ScoresBounded s) (hx : exec i s = .next u) :
    ScoresBounded u := by
  obtain ⟨hcand, hbest, htotal⟩ := hs
  rcases exec_next_cases hx with ⟨f, h, -, rfl⟩ | ⟨f, -, rfl⟩ | ⟨f, h, n, -, rfl⟩ | ⟨f, h, n, -, -, rfl⟩ |
    ⟨f, h, n, -, -, rfl⟩ | ⟨-, rfl⟩ | ⟨-, rfl⟩ | ⟨-, rfl⟩
  case inr.inr.inl =>
    exact ⟨(toNat_searchScore ..).trans_le (searchScore_le ..), hbest, htotal⟩
  case inr.inr.inr.inl =>
    refine ⟨hcand, fun f' h' => ?_, htotal⟩
    rw [getBest_setBest]
    split
    · exact hcand
    · exact hbest f' h'
  case inr.inr.inr.inr.inr.inl =>
    refine ⟨hcand, hbest, fun f' => ?_⟩
    rw [total_exec_selori (exec_selori s)]
    exact totalOf_le hbest f'
  all_goals exact ⟨hcand, hbest, htotal⟩

theorem registerInvariant_scoresBounded : RegisterInvariant ScoresBounded where
  setPhase_iff _ _ := Iff.rfl
  setSeq_iff _ _ := Iff.rfl
  setHost_iff _ _ := Iff.rfl
  at_reset := by
    obtain ⟨-, -, hscores, -⟩ := Proofs.invariantsAtReset
    exact hscores
  latch_keeps _ _ hs := hs
  exec_keeps _ _ _ hs hx := exec_keeps_scoresBounded hs hx

end Sys2Proof.Machine
end

section
/-! SUPPORT. The modifier table and the clamp (R60 to R62), the scan of the four entries of a row and the software's
scan with its early exit (R65, R66), and the two bits of each pixel in the index planes (R67 to R71). -/

namespace Sys2Proof.Machine

open Sys2Proof.Safety

/-- A row is its small and its large offset with both signs (R61). -/
theorem modTab_eq_modRow (t : BitVec 3) (k : BitVec 2) : modTab t k = modRow (modTab t 0) (modTab t 1) k := by
  revert t k
  decide

theorem modTab_small_lt_large (t : BitVec 3) : 0 < modTab t 0 ∧ modTab t 0 < modTab t 1 ∧ modTab t 1 ≤ 183 := by
  revert t
  decide

theorem modRow_mem_Icc {small large : Int} (hpos : 0 < small) (hlt : small < large) (k : BitVec 2) :
    -large ≤ modRow small large k ∧ modRow small large k ≤ large := by
  unfold modRow
  split <;> omega

/-- The largest offset of the default table is 183 (R60). -/
theorem modTab_mem_Icc (t : BitVec 3) (k : BitVec 2) : -183 ≤ modTab t k ∧ modTab t k ≤ 183 := by
  obtain ⟨hpos, hlt, hmax⟩ := modTab_small_lt_large t
  have := modRow_mem_Icc hpos hlt k
  rw [modTab_eq_modRow t k]
  omega

theorem clamp_of_neg {v : Int} (h : v < 0) : clamp v = 0 := if_pos h

theorem clamp_of_gt {v : Int} (h : 255 < v) : clamp v = 255 := by
  rw [clamp, if_neg (by omega), if_pos h]

theorem toNat_clamp {v : Int} (h0 : 0 ≤ v) (h255 : v ≤ 255) : ((clamp v).toNat : Int) = v := by
  rw [clamp, if_neg (by omega), if_neg (by omega), BitVec.toNat_ofInt]
  omega

/-- What the scan holds when it has seen the entries below `n`: the least index of least value among them, with its
value (R65). -/
def LeastBelow (e : BitVec 2 → Nat) (n : Nat) (best : BitVec 2 × Nat) : Prop :=
  best.1.toNat < n ∧ best.2 = e best.1 ∧
  ∀ j : BitVec 2, j.toNat < n → e best.1 ≤ e j ∧ (e j = e best.1 → best.1.toNat ≤ j.toNat)

theorem leastBelow_one (e : BitVec 2 → Nat) : LeastBelow e 1 (0, e 0) := by
  refine ⟨Nat.one_pos, rfl, fun j hj => ?_⟩
  obtain rfl : j = 0 := BitVec.eq_of_toNat_eq (Nat.lt_one_iff.mp hj)
  exact ⟨le_rfl, fun _ => le_rfl⟩

/-- Replacing only on strictly less keeps the least index (R65). -/
theorem leastBelow_scanStep {e : BitVec 2 → Nat} {best : BitVec 2 × Nat} {k : BitVec 2}
    (hb : LeastBelow e k.toNat best) : LeastBelow e (k.toNat + 1) (scanStep e best k) := by
  obtain ⟨hlt, hval, hleast⟩ := hb
  have hcases (j : BitVec 2) (hj : j.toNat < k.toNat + 1) : j.toNat < k.toNat ∨ j = k :=
    (Nat.lt_succ_iff_lt_or_eq.mp hj).imp_right BitVec.eq_of_toNat_eq
  unfold scanStep
  split
  · next hless =>
    refine ⟨Nat.lt_succ_self _, rfl, fun j hj => ?_⟩
    rcases hcases j hj with hjk | rfl
    · have := (hleast j hjk).1
      dsimp only
      omega
    · exact ⟨le_rfl, fun _ => le_rfl⟩
  · next hnot =>
    refine ⟨Nat.lt_succ_of_lt hlt, hval, fun j hj => ?_⟩
    rcases hcases j hj with hjk | rfl
    · exact hleast j hjk
    · omega

/-- The scan has seen all four entries. -/
theorem leastBelow_pixBest (row : BitVec 2 → Int) (b p : Color) :
    LeastBelow (entryError row b p) 4 (pixBest row b p) :=
  leastBelow_scanStep (k := 3) (leastBelow_scanStep (k := 2) (leastBelow_scanStep (k := 1) (leastBelow_one _)))

theorem pixBest_error (row : BitVec 2 → Int) (b p : Color) :
    (pixBest row b p).2 = entryError row b p (pixBest row b p).1 := (leastBelow_pixBest row b p).2.1

theorem isLeastIndex_pixBest (row : BitVec 2 → Int) (b p : Color) :
    IsLeastIndex (entryError row b p) (pixBest row b p).1 :=
  fun j => (leastBelow_pixBest row b p).2.2 j j.isLt

theorem leastError_le (row : BitVec 2 → Int) (b p : Color) (k : BitVec 2) :
    leastError row b p ≤ entryError row b p k := by
  have hk : k = 0 ∨ k = 1 ∨ k = 2 ∨ k = 3 := by revert k; decide
  unfold leastError
  rcases hk with rfl | rfl | rfl | rfl <;> omega

/-- An index of least value has the least of the four errors. -/
theorem pixBest_error_eq_leastError (row : BitVec 2 → Int) (b p : Color) :
    (pixBest row b p).2 = leastError row b p := by
  have hle (j : BitVec 2) : entryError row b p (pixBest row b p).1 ≤ entryError row b p j :=
    (isLeastIndex_pixBest row b p j).1
  rw [pixBest_error]
  exact Nat.le_antisymm (le_min (le_min (hle 0) (hle 1)) (le_min (hle 2) (hle 3))) (leastError_le row b p _)

/-- The green term alone bounds the error from below (R64). -/
theorem green_le_entryError (row : BitVec 2 → Int) (b p : Color) (k : BitVec 2) :
    6 * sqDiff (decodedColor b (row k)).g p.g ≤ entryError row b p k := by
  unfold entryError pixelError
  omega

/-- An entry the software leaves early is one the scan does not take (R66). -/
theorem earlyExitStep_eq_scanStep (row : BitVec 2 → Int) (b p : Color) :
    earlyExitStep row b p = scanStep (entryError row b p) := by
  funext best k
  simp only [earlyExitStep]
  split
  · next hexit =>
    have hnot : ¬ entryError row b p k < best.2 := by
      have := green_le_entryError row b p k
      omega
    exact (if_neg hnot).symm
  · rfl

/-- The score with the least error of R65, over all the pixels of the half (R69, R70). -/
theorem searchScore_eq_sum_leastError (row : BitVec 2 → Int) (px : Pixel → Color) (mask : BitVec 16) (f : Orient)
    (h : Half) (base : Color) : searchScore row px mask f h base =
      ((half f h).map fun p => if valid mask p then leastError row base (px p) else 0).sum := by
  simp [searchScore, validPixels, pixBest_error_eq_leastError, List.sum_map_ite]

/-- The index bits as two placed fields (R67). -/
theorem indexBits_eq_placeField (p : Pixel) (k : BitVec 2) :
    indexBits p k = placeField (k.extractLsb' 1 1) (16 + pixelPos p) ||| placeField (k.extractLsb' 0 1) (pixelPos p) :=
  rfl

/-- In plane `c` the index of a pixel has its bit `c` at the pixel's position, and nothing at another's (R43, R67). -/
theorem getLsbD_indexBits (p q : Pixel) (k : BitVec 2) {c : Nat} (hc : c < 2) :
    (indexBits q k).getLsbD (16 * c + pixelPos p) = (decide (q = p) && k.getLsbD c) := by
  have hp := pixelPos_lt p
  have hq := pixelPos_lt q
  rw [indexBits_eq_placeField, BitVec.getLsbD_eq_extractLsb', BitVec.getLsbD_eq_extractLsb', BitVec.extractLsb'_or]
  by_cases hpq : q = p
  · subst hpq
    obtain rfl | rfl : c = 0 ∨ c = 1 := by omega
    all_goals simp (disch := omega) [extractLsb'_placeField_same, extractLsb'_placeField_of_disjoint]
  · have hne : pixelPos q ≠ pixelPos p := fun he => hpq (pixelPos_injective he)
    simp (disch := omega) [extractLsb'_placeField_of_disjoint, hpq]

theorem getLsbD_foldl_or (g : Pixel → Word32) (ps : List Pixel) (low : Word32) (j : Nat) :
    (ps.foldl (fun low p => low ||| g p) low).getLsbD j = (low.getLsbD j || ps.any fun p => (g p).getLsbD j) := by
  induction ps generalizing low with
  | nil => simp
  | cons p ps ih => simp [ih, Bool.or_assoc]

/-- In plane `c` a valid pixel of the half has bit `c` of its best index, every other pixel 0 (R69, R70, R71). -/
theorem getLsbD_searchLow (row : BitVec 2 → Int) (px : Pixel → Color) (mask : BitVec 16) (f : Orient) (h : Half)
    (base : Color) (p : Pixel) {c : Nat} (hc : c < 2) :
    (searchLow row px mask f h base).getLsbD (16 * c + pixelPos p) =
      (decide (p ∈ validPixels mask f h) && (pixBest row base (px p)).1.getLsbD c) := by
  rw [searchLow, getLsbD_foldl_or, Bool.eq_iff_iff]
  simp [getLsbD_indexBits, hc]

end Sys2Proof.Machine
end

section
/-! The statements about the modifier search (42_modifier_search.md). -/

namespace Sys2Proof.Proofs

open Sys2Proof.Machine Sys2Proof.Safety

/-- Settles O19: `MSEARCH`, `TBEST` and `SELORI` establish the bounds of what they write, and nothing else writes a
score or a total. -/
theorem stepKeepsScoresBounded : Obligations.StepKeepsScoresBounded :=
  fun _ _ hs hst => registerInvariant_scoresBounded.step_keeps hs hst

/-- Settles O42, by the invariant of the scan. -/
theorem pixelBestIsLeast : Obligations.PixelBestIsLeast :=
  fun row b p => ⟨pixBest_error_eq_leastError row b p, pixBest_error row b p, isLeastIndex_pixBest row b p⟩

/-- Settles O43: the two scans agree step by step. -/
theorem earlyExitIsUnobservable : Obligations.EarlyExitIsUnobservable := by
  intro row b p
  rw [earlyExitBest, earlyExitStep_eq_scanStep, pixBest]

/-- Settles O44: the score fits its register, and each plane is read bit by bit. -/
theorem searchScoresAndIndexes : Obligations.SearchScoresAndIndexes := by
  intro s f h n
  refine ⟨_, exec_msearch f h n s, (toNat_searchScore ..).trans (searchScore_eq_sum_leastError ..), fun p => ?_⟩
  have hlower := getLsbD_searchLow (modTab n) (readPixel s.tile) s.mask f h (getBase s f h) p (c := 0) (by decide)
  have hupper := getLsbD_searchLow (modTab n) (readPixel s.tile) s.mask f h (getBase s f h) p (c := 1) (by decide)
  rw [Nat.mul_zero, Nat.zero_add] at hlower
  rw [Nat.mul_one] at hupper
  split
  · next hp =>
    rw [decide_eq_true (mem_validPixels.mpr hp), Bool.true_and] at hlower hupper
    exact ⟨_, isLeastIndex_pixBest _ _ _, hlower, hupper⟩
  · next hp =>
    rw [decide_eq_false (mt mem_validPixels.mp hp), Bool.false_and] at hlower hupper
    exact ⟨hlower, hupper⟩

/-- Settles O40: the three ranges of the clamp, and the largest offset of the table. -/
theorem clampSaturates : Obligations.ClampSaturates := by
  refine ⟨fun _ => clamp_of_neg, fun _ => clamp_of_gt, fun _ => toNat_clamp, fun c t k => ?_⟩
  have hc := c.isLt
  have hm := modTab_mem_Icc t k
  omega

/-- Settles O41: each row is its two offsets with both signs. -/
theorem tableRowsAreSymmetric : Obligations.TableRowsAreSymmetric := by
  intro t
  obtain ⟨hpos, hlt, -⟩ := modTab_small_lt_large t
  exact ⟨modTab_eq_modRow t 2, modTab_eq_modRow t 3, hpos, hlt⟩

end Sys2Proof.Proofs
end

section
/-! SUPPORT. The least table of a half (R74): the order of the tables by score and then by number, what one `MSEARCH`,
`TBEST` pair does to `BEST[f][h]` (R73), and the pairs of the tables in ascending order (R92). -/

namespace Sys2Proof.Machine

theorem getBest_setBest_same (s : State) (f : Orient) (h : Half) (b : Best) : getBest (setBest s f h b) f h = b := by
  simp

end Sys2Proof.Machine

namespace Sys2Proof.Safety

open Sys2Proof.Machine

/-- The least table of least score comes first when tables are ordered by score and then by number (R74). -/
theorem isLeastTable_iff {e : BitVec 3 → Nat} {t : BitVec 3} :
    IsLeastTable e t ↔ ∀ u, e t < e u ∨ e t = e u ∧ t.toNat ≤ u.toNat :=
  forall_congr' fun u => by omega

theorem isLeastTable_leastTable (e : BitVec 3 → Nat) : IsLeastTable e (leastTable e) := by
  obtain ⟨t, ht⟩ := Finite.exists_min fun u : BitVec 3 => toLex (e u, u.toNat)
  have hleast : IsLeastTable e t := isLeastTable_iff.mpr fun u => Prod.Lex.toLex_le_toLex.mp (ht u)
  rwa [leastTable_eq (fun u => (hleast u).1) fun u => (hleast u).2]

/-- The least table of least score among those below `n`. -/
def LeastTableBelow (e : BitVec 3 → Nat) (n : Nat) (t : BitVec 3) : Prop :=
  t.toNat < n ∧ ∀ u : BitVec 3, u.toNat < n → e t < e u ∨ e t = e u ∧ t.toNat ≤ u.toNat

theorem leastTableBelow_one (e : BitVec 3 → Nat) : LeastTableBelow e 1 0 := by
  refine ⟨Nat.one_pos, fun u hu => ?_⟩
  obtain rfl : u = 0 := BitVec.eq_of_toNat_eq (Nat.lt_one_iff.mp hu)
  exact .inr ⟨rfl, le_rfl⟩

/-- The next table replaces the least one so far only on a strictly smaller score (R73). -/
theorem LeastTableBelow.replace_if_less {e : BitVec 3 → Nat} {k t : BitVec 3} (ht : LeastTableBelow e k.toNat t) :
    LeastTableBelow e (k.toNat + 1) (if e k < e t then k else t) := by
  obtain ⟨hlt, hleast⟩ := ht
  refine ⟨by split <;> omega, fun u hu => ?_⟩
  obtain hu | rfl : u.toNat < k.toNat ∨ u = k := (Nat.lt_succ_iff_lt_or_eq.mp hu).imp_right BitVec.eq_of_toNat_eq
  · have := hleast u hu
    split <;> omega
  · split <;> omega

theorem LeastTableBelow.isLeastTable {e : BitVec 3 → Nat} {t : BitVec 3} (ht : LeastTableBelow e 8 t) :
    IsLeastTable e t :=
  isLeastTable_iff.mpr fun u => ht.2 u u.isLt

theorem execAll_cons_of_next {i : Instr} {is : List Instr} {s u : State} (hx : exec i s = .next u) :
    execAll (i :: is) s = execAll is u := by
  simp only [execAll, hx]

theorem execAll_append_of_next {is js : List Instr} {s u : State} (hx : execAll is s = .next u) :
    execAll (is ++ js) s = execAll js u := by
  induction is generalizing s with
  | nil => cases hx; rfl
  | cons i is ih =>
    cases hi : exec i s with
    | next v =>
      rw [execAll_cons_of_next hi] at hx
      rw [List.cons_append, execAll_cons_of_next hi, ih hx]
    | fault r => simp only [execAll, hi, reduceCtorEq] at hx
    | refused r => simp only [execAll, hi, reduceCtorEq] at hx

/-- What `TBEST f,h,t` stores after `MSEARCH f,h,t`, if it stores (R69, R73). -/
def searchResult (s : State) (f : Orient) (h : Half) (t : BitVec 3) : Best :=
  ⟨t, (msearchWith modTab f h t s).cand.score, (msearchWith modTab f h t s).cand.low⟩

theorem toNat_score_searchResult (s : State) (f : Orient) (h : Half) (t : BitVec 3) :
    (searchResult s f h t).score.toNat = searchScore (modTab t) (readPixel s.tile) s.mask f h (getBase s f h) :=
  toNat_searchScore ..

/-- One pair of a half: `BEST[f][h]` takes the table's result on `t = 0` or a strictly smaller score, and no result of
the half changes. -/
theorem execAll_searchPair (s : State) (f : Orient) (h : Half) (t : BitVec 3) :
    ∃ u, execAll [.msearch f h t, .tbest f h t] s = .next u ∧ searchResult u f h = searchResult s f h ∧
      getBest u f h =
        if t = 0 ∨ (searchResult s f h t).score < (getBest s f h).score then searchResult s f h t
        else getBest s f h := by
  refine ⟨_, by rw [execAll_cons_of_next (exec_msearch ..), execAll_cons_of_next (exec_tbest ..)]; rfl, ?_, ?_⟩
  · split <;> rfl
  · rw [apply_ite (getBest · f h), getBest_setBest_same]
    rfl

/-- What a half holds after the pairs of the tables below `n`, begun in `s`: the results are those of `s`, and
`BEST[f][h]` is the one of the least table so far. -/
def BestBelow (s : State) (f : Orient) (h : Half) (n : Nat) (u : State) : Prop :=
  searchResult u f h = searchResult s f h ∧
  (n ≠ 0 → ∃ t, LeastTableBelow (fun v => (searchResult s f h v).score.toNat) n t ∧
    getBest u f h = searchResult s f h t)

theorem BestBelow.after_pair {s u : State} {f : Orient} {h : Half} {k : BitVec 3} (hu : BestBelow s f h k.toNat u) :
    ∃ v, execAll [.msearch f h k, .tbest f h k] u = .next v ∧ BestBelow s f h (k.toNat + 1) v := by
  obtain ⟨hres, hbest⟩ := hu
  obtain ⟨v, hv, hkeep, hget⟩ := execAll_searchPair u f h k
  refine ⟨v, hv, hkeep.trans hres, fun _ => ?_⟩
  rw [hres] at hget
  by_cases hk : k = 0
  · subst hk
    exact ⟨0, leastTableBelow_one _, by rw [hget, if_pos (.inl rfl)]⟩
  · obtain ⟨t, hleast, ht⟩ := hbest fun h0 => hk (BitVec.eq_of_toNat_eq h0)
    refine ⟨_, hleast.replace_if_less, ?_⟩
    rw [hget, ht, apply_ite (searchResult s f h)]
    simp only [hk, false_or, BitVec.lt_def]

theorem take_succ_allTables : ∀ n < 8, allTables.take (n + 1) = allTables.take n ++ [BitVec.ofNat 3 n] := by decide

/-- The first `n` pairs of a half, by induction on `n`. -/
theorem execAll_searchPairs (s : State) (f : Orient) (h : Half) {n : Nat} (hn : n ≤ 8) :
    ∃ u, execAll ((allTables.take n).flatMap fun t => [.msearch f h t, .tbest f h t]) s = .next u ∧
      BestBelow s f h n u := by
  induction n with
  | zero => exact ⟨s, rfl, rfl, fun h0 => absurd rfl h0⟩
  | succ n ih =>
    obtain ⟨u, hu, hbest⟩ := ih (Nat.le_of_succ_le hn)
    have hk : (BitVec.ofNat 3 n).toNat = n := Nat.mod_eq_of_lt hn
    obtain ⟨v, hv, hnext⟩ := BestBelow.after_pair (hk.symm ▸ hbest)
    rw [take_succ_allTables n hn, List.flatMap_append, execAll_append_of_next hu]
    exact ⟨v, hv, hk ▸ hnext⟩

end Sys2Proof.Safety
end

section
/-! SUPPORT. The choice of the orientation (R75), and the least total over an orientation's tables and over both
orientations (R76). -/

namespace Sys2Proof.Machine

open Sys2Proof.Safety

theorem betterOrient_eq_f1_iff {total0 total1 : Score} :
    betterOrient total0 total1 = .f1 ↔ total1.toNat < total0.toNat := by
  unfold betterOrient
  split
  · next hlt => exact iff_of_true rfl hlt
  · next hge => exact iff_of_false nofun hge

section
variable (tab : Config.ModTab) (px : Pixel → Color) (mask : BitVec 16)

theorem isLeastTable_tileTable (f : Orient) (h : Half) :
    IsLeastTable (tileScore tab px mask f h) (tileTable tab px mask f h) := isLeastTable_leastTable _

/-- The two halves of an orientation are independent: its total is the least over pairs of tables. -/
theorem tileTotal_le (f : Orient) (t1 t2 : BitVec 3) :
    tileTotal tab px mask f ≤ tileScore tab px mask f .h0 t1 + tileScore tab px mask f .h1 t2 :=
  Nat.add_le_add (isLeastTable_tileTable tab px mask f .h0 t1).1 (isLeastTable_tileTable tab px mask f .h1 t2).1

/-- A pair of tables with the orientation's total has no smaller table in either half. -/
theorem tileTable_le_of_total_eq {f : Orient} {t1 t2 : BitVec 3}
    (heq : tileScore tab px mask f .h0 t1 + tileScore tab px mask f .h1 t2 = tileTotal tab px mask f) :
    (tileTable tab px mask f .h0).toNat ≤ t1.toNat ∧ (tileTable tab px mask f .h1).toNat ≤ t2.toNat := by
  obtain ⟨hle1, hfirst1⟩ := isLeastTable_tileTable tab px mask f .h0 t1
  obtain ⟨hle2, hfirst2⟩ := isLeastTable_tileTable tab px mask f .h1 t2
  rw [tileTotal] at heq
  exact ⟨hfirst1 (by omega), hfirst2 (by omega)⟩

/-- The orientation not chosen has a greater total, or the same and is the flipped one. -/
theorem tileTotal_of_ne_tileFlip {f : Orient} (hf : f ≠ tileFlip tab px mask) :
    tileTotal tab px mask (tileFlip tab px mask) < tileTotal tab px mask f ∨
    tileTotal tab px mask (tileFlip tab px mask) = tileTotal tab px mask f ∧
      (orientBit (tileFlip tab px mask)).toNat < (orientBit f).toNat := by
  by_cases hlt : tileTotal tab px mask .f1 < tileTotal tab px mask .f0
  · have hflip : tileFlip tab px mask = .f1 := if_pos hlt
    rw [hflip] at hf ⊢
    cases f with
    | f0 => exact .inl hlt
    | f1 => exact absurd rfl hf
  · have hflip : tileFlip tab px mask = .f0 := if_neg hlt
    rw [hflip] at hf ⊢
    cases f with
    | f0 => exact absurd rfl hf
    | f1 => exact (Nat.lt_or_eq_of_le (Nat.le_of_not_lt hlt)).imp_right fun heq => ⟨heq, by decide⟩

end

end Sys2Proof.Machine
end

section
/-! The statements about the score comparator (43_score_select.md). -/

namespace Sys2Proof.Proofs

open Sys2Proof.Machine Sys2Proof.Safety

/-- Settles O46: all eight pairs of a half, by the invariant of the tables compared so far. -/
theorem eightTablesGiveLeast : Obligations.EightTablesGiveLeast := by
  intro s f h
  obtain ⟨u, hu, -, hbest⟩ := execAll_searchPairs s f h le_rfl
  obtain ⟨t, hleast, ht⟩ := hbest nofun
  simp only [toNat_score_searchResult] at hleast
  refine ⟨u, t, hu, hleast.isLeastTable, ?_⟩
  rw [ht]
  exact ⟨rfl, toNat_score_searchResult s f h t, rfl⟩

/-- Settles O47: `SELORI` compares the two totals it writes, which 24 bits hold within the bound of R68. -/
theorem orientationOfLesserTotal : Obligations.OrientationOfLesserTotal := by
  intro s
  have htotal := total_exec_selori (exec_selori s)
  refine ⟨_, exec_selori s, htotal, ?_, fun ⟨_, hbest, _⟩ f => ?_⟩
  · rw [htotal, htotal, setSel_sel]
    exact betterOrient_eq_f1_iff
  · rw [htotal, toNat_totalOf hbest]

/-- Settles O59: each half's table is least on its own, and the flipped orientation wins only if strictly smaller. -/
theorem selectionIsLeastOfAll : Obligations.SelectionIsLeastOfAll := by
  intro tab px mask f t1 t2
  dsimp only
  have hle := tileTotal_le tab px mask f t1 t2
  by_cases hf : f = tileFlip tab px mask
  · subst hf
    refine ⟨hle, fun heq => .inr ?_⟩
    obtain ⟨h1, h2⟩ := tileTable_le_of_total_eq tab px mask heq
    rcases Nat.lt_or_eq_of_le h1 with hlt | hsame
    · exact .inl ⟨rfl, hlt⟩
    · exact .inr ⟨rfl, BitVec.eq_of_toNat_eq hsame, h2⟩
  · have hother := tileTotal_of_ne_tileFlip tab px mask hf
    exact ⟨by omega, fun heq => .inl (by omega)⟩

/-- Settles O45, by the two branches of `TBEST`. -/
theorem bestTableKeptOnTie : Obligations.BestTableKeptOnTie := by
  intro s f h n
  refine ⟨_, exec_tbest f h n s, fun hstore => ?_, fun hn hle => if_neg (not_or.mpr ⟨hn, Nat.not_lt.mpr hle⟩)⟩
  rw [← BitVec.lt_def] at hstore
  rw [if_pos hstore, getBest_setBest_same]

end Sys2Proof.Proofs
end

section
/-! SUPPORT. The words of the packer over its operands: the color fields through `HIGH` (R81, R83), and the union of the
two low words at the pixels of one half (R82). -/

namespace Sys2Proof.Machine

open Sys2Proof.Safety

/-- The color fields all lie above the low byte, the only one `PACK` ors into (R81). -/
theorem fieldsGive_packHigh_iff (m : Mode) (w : Word32) (table1 table2 : BitVec 3) (f : Orient) (c0 c1 : Color) :
    FieldsGive m (packHigh w table1 table2 f) c0 c1 ↔ FieldsGive m w c0 c1 := by
  cases m <;>
    simp (disch := omega) only [FieldsGive, IndivFieldsGive, DiffFieldsGive, extractLsb'_packHigh_color]

theorem getLsbD_mask_of_within {w m : Word32} {j : Nat} (hw : w &&& ~~~m = 0) (hj : w.getLsbD j = true) :
    m.getLsbD j = true := by
  have hbit := congrArg (·.getLsbD j) hw
  simpa [hj, BitVec.lt_of_getLsbD hj] using hbit

/-- At a bit that belongs to a pixel, in either plane, the union of two words that keep to their halves is the word of
the pixel's own half (R82). -/
theorem getLsbD_or_of_inHalf {low : Half → Word32} {f : Orient} (hlow : ∀ h, low h &&& ~~~(halfPlanes f h) = 0)
    {p : Pixel} {j : Nat} (hplane : ∀ h, (halfPlanes f h).getLsbD j = true ↔ p ∈ half f h) {h : Half}
    (hp : p ∈ half f h) : (low .h0 ||| low .h1).getLsbD j = (low h).getLsbD j := by
  have hother (h' : Half) (hp' : p ∉ half f h') : (low h').getLsbD j = false :=
    Bool.eq_false_iff.mpr fun hj => hp' ((hplane h').mp (getLsbD_mask_of_within (hlow h') hj))
  rw [BitVec.getLsbD_or]
  cases h with
  | h0 => rw [hother .h1 fun hp1 => mem_half_h1.mp hp1 hp, Bool.or_false]
  | h1 => rw [hother .h0 (mem_half_h1.mp hp), Bool.false_or]

end Sys2Proof.Machine
end

section
/-! The statements about the bitfield packer (44_bitfield_packer.md). -/

namespace Sys2Proof.Proofs

open Sys2Proof.Machine Sys2Proof.Safety

/-- Settles O49: `HIGH` read field by field, and `LOW` at the pixels of each half, in both planes. -/
theorem packedFields : Obligations.PackedFields := by
  rintro s hs ⟨hbest, -⟩
  obtain ⟨htable1, htable2, hmode, hflip⟩ :=
    fields_packHigh (hs s.sel) (getBest s s.sel .h0).table (getBest s s.sel .h1).table s.sel
  refine ⟨_, exec_pack s, hflip, hmode, htable2, htable1, extractLsb'_packHigh_color _ _ _ _ le_rfl, fun h p hp => ?_⟩
  exact ⟨getLsbD_or_of_inHalf (hbest s.sel) (fun h => (getLsbD_halfPlanes s.sel h p).1) hp,
    getLsbD_or_of_inHalf (hbest s.sel) (fun h => (getLsbD_halfPlanes s.sel h p).2) hp⟩

/-- Settles O51: `HIGH` has the color fields of the winner's `HIBASE`. -/
theorem packedColorsAreBaseColors : Obligations.PackedColorsAreBaseColors :=
  fun s hs => ⟨_, exec_pack s, (fieldsGive_packHigh_iff ..).mpr (hs s.sel)⟩

/-- Settles O48: the two words are those of the rule for `PACK`. -/
theorem packAssemblesWords : Obligations.PackAssemblesWords :=
  fun s => ⟨_, exec_pack s, rfl, rfl⟩

end Sys2Proof.Proofs
end

section
/-! SUPPORT. The four bytes of a word determine it (R26, R87). -/

namespace Sys2Proof

theorem wordBytes_injective {w w' : Word32} (h : wordBytes w = wordBytes w') : w = w' :=
  eq_of_fields_eq [(24, 8), (16, 8), (8, 8), (0, 8)] (by decide) (by simpa [wordBytes] using h)

end Sys2Proof
end

section
/-! The statement about the injectivity of the big-endian serializer (45_big_endian_serializer.md). -/

namespace Sys2Proof.Proofs

open Sys2Proof.Machine

/-- Settles O53: `OUT` is the bytes of `HIGH`, then those of `LOW`, and each word is determined by its four bytes. -/
theorem serializationIsInjective : Obligations.SerializationIsInjective := by
  intro s s' t t' ht ht' hout
  rw [outBytes_of_exec_ser ht, outBytes_of_exec_ser ht'] at hout
  obtain ⟨hhigh, hlow⟩ := List.append_inj hout rfl
  exact ⟨wordBytes_injective hhigh, wordBytes_injective hlow⟩

end Sys2Proof.Proofs
end

section
/-! SUPPORT. The dispatch under any modifier table (R60, R91): its frame, and that it always completes. -/

namespace Sys2Proof.Machine

open Sys2Proof.Safety

section
variable {tab : Config.ModTab} {i : Instr} {s u : State}

/-- Only `MSEARCH` depends on the modifier table (R23, R60). -/
theorem execWith_cases (tab : Config.ModTab) (i : Instr) (s : State) :
    (∃ f h n, i = .msearch f h n ∧ execWith tab i s = .next (msearchWith tab f h n s)) ∨
    execWith tab i s = exec i s := by
  cases i with
  | msearch f h n => exact .inl ⟨f, h, n, rfl, rfl⟩
  | _ => exact .inr rfl

theorem execWith_completes (hi : i.WellFormed) (s : State) : ∃ u, execWith tab i s = .next u := by
  rcases execWith_cases tab i s with ⟨f, h, n, -, hx⟩ | hx
  · exact ⟨_, hx⟩
  · exact hx ▸ exec_completes hi s

theorem execWith_keeps_sequencer (hx : execWith tab i s = .next u) :
    u.phase = s.phase ∧ u.seq = s.seq ∧ u.host = s.host := by
  rcases execWith_cases tab i s with ⟨f, h, n, -, he⟩ | he <;> rw [he] at hx
  · cases hx
    exact ⟨rfl, rfl, rfl⟩
  · exact exec_keeps_sequencer hx

/-- No micro-operation writes `TILE` or `MASK` (R8, R9). -/
theorem execWith_keeps_inputs (hx : execWith tab i s = .next u) : u.tile = s.tile ∧ u.mask = s.mask := by
  rcases execWith_next_cases hx with ⟨f, h, -, rfl⟩ | ⟨f, -, rfl⟩ | ⟨f, h, n, -, rfl⟩ | ⟨f, h, n, -, -, rfl⟩ |
    ⟨f, h, n, -, -, rfl⟩ | ⟨-, rfl⟩ | ⟨-, rfl⟩ | ⟨-, rfl⟩ <;> exact ⟨rfl, rfl⟩

theorem execWith_sameReg {r : Reg} (hx : execWith tab i s = .next u) (hr : r ∉ writes i) : SameReg s u r := by
  rcases execWith_cases tab i s with ⟨f, h, n, rfl, he⟩ | he <;> rw [he] at hx
  · cases hx
    exact (sameReg_setCand (by simpa [writes] using hr)).mpr (sameReg_refl s r)
  · exact exec_sameReg hx hr

theorem execWith_keeps_out (hi : i ≠ .ser) (hx : execWith tab i s = .next u) : u.out = s.out := by
  rcases execWith_cases tab i s with ⟨f, h, n, -, he⟩ | he <;> rw [he] at hx
  · cases hx
    rfl
  · exact exec_keeps_out hi hx

end

end Sys2Proof.Machine
end

section
/-! SUPPORT. The run invariant (R92, R94, R116): what each register holds after one more word of the run, then every
step of the block, under any modifier table. -/

namespace Sys2Proof.Safety

open Sys2Proof.Machine

/-- The micro-operations that write a register (the table of 10_state.md section 4). -/
def IsWriter : Reg → Instr → Prop
  | .tile, _ => False
  | .mask, _ => False
  | .avg f h, i => i = .avg f h
  | .base f _, i => i = .qbase f
  | .diff f, i => i = .qbase f
  | .hibase f, i => i = .qbase f
  | .cand, i => ∃ f h n, i = .msearch f h n
  | .best f h, i => ∃ n, i = .tbest f h n
  | .total _, i => i = .selori
  | .sel, i => i = .selori
  | .high, i => i = .pack
  | .low, i => i = .pack
  | .out, i => i = .ser

theorem isWriter_of_mem_writes {r : Reg} {i : Instr} (hr : r ∈ writes i) : IsWriter r i := by
  cases i <;> simp only [writes, List.mem_cons, List.not_mem_nil, or_false] at hr
  case avg f h => subst hr; rfl
  case qbase f => rcases hr with rfl | rfl | rfl | rfl <;> rfl
  case msearch f h n => subst hr; exact ⟨f, h, n, rfl⟩
  case tbest f h n => subst hr; exact ⟨n, rfl⟩
  case selori => rcases hr with rfl | rfl | rfl <;> rfl
  case pack => rcases hr with rfl | rfl <;> rfl
  case ser => subst hr; rfl

/-- The clause of `RunValues` about one half's `BEST` and one table compared among the first `n` words (R73, R74). -/
def BestAmong (tab : Config.ModTab) (px : Pixel → Color) (mask : BitVec 16) (n : Nat) (f : Orient) (h : Half)
    (b : Best) (t : BitVec 3) : Prop :=
  Performed n (.tbest f h b.table) ∧ b.score.toNat = tileScore tab px mask f h b.table ∧
  b.low = tileLow tab px mask f h b.table ∧ b.score.toNat ≤ tileScore tab px mask f h t ∧
  (tileScore tab px mask f h t = b.score.toNat → b.table.toNat ≤ t.toNat)

section
variable {tab : Config.ModTab} {n : Nat} {i : Instr} {s u : State}

/-- After one more word, a micro-operation performed so far is that word or was performed before. -/
theorem performed_succ_cases (hi : romProgram[n]? = some i) {j : Instr} (hp : Performed (n + 1) j) :
    i = j ∨ i ≠ j ∧ Performed n j := by
  by_cases hij : i = j
  · exact .inl hij
  · exact .inr ⟨hij, ((performed_succ hi j).mp hp).resolve_right (Ne.symm hij)⟩

theorem sameReg_of_not_isWriter {r : Reg} (hx : execWith tab i s = .next u) (hr : ¬ IsWriter r i) : SameReg s u r :=
  execWith_sameReg hx (mt isWriter_of_mem_writes hr)

/-- When all eight tables of a half have been compared, `BEST[f][h]` is the result of the tile's table (R74). -/
theorem RunValues.best_final (hv : RunValues tab n s) {f : Orient} {h : Half}
    (hall : ∀ t, Performed n (.tbest f h t)) :
    (getBest s f h).table = tileTable tab (readPixel s.tile) s.mask f h ∧
    (getBest s f h).score.toNat =
      tileScore tab (readPixel s.tile) s.mask f h (tileTable tab (readPixel s.tile) s.mask f h) ∧
    (getBest s f h).low =
      tileLow tab (readPixel s.tile) s.mask f h (tileTable tab (readPixel s.tile) s.mask f h) := by
  obtain ⟨-, hscore, hlow, -⟩ := hv.best f h 0 (hall 0)
  have htable : tileTable tab (readPixel s.tile) s.mask f h = (getBest s f h).table := by
    refine leastTable_eq (fun t => ?_) fun t ht => ?_
    · obtain ⟨-, -, -, hle, -⟩ := hv.best f h t (hall t)
      exact hscore ▸ hle
    · obtain ⟨-, -, -, -, hfirst⟩ := hv.best f h t (hall t)
      exact hfirst (ht.trans hscore.symm)
  rw [htable]
  exact ⟨rfl, hscore, hlow⟩

/-- The two totals of a run, within the bound of R68. -/
theorem RunValues.totalOf_eq (hv : RunValues tab n s) (hall : ∀ f h t, Performed n (.tbest f h t)) (f : Orient) :
    (totalOf s f).toNat = tileTotal tab (readPixel s.tile) s.mask f := by
  have hscore (f : Orient) (h : Half) := (hv.best_final (hall f h)).2.1
  have hbound (f : Orient) (h : Half) : (getBest s f h).score.toNat ≤ 5202000 := hscore f h ▸ searchScore_le ..
  rw [toNat_totalOf hbound, hscore, hscore, tileTotal]

section
variable (hv : RunValues tab n s) (hi : romProgram[n]? = some i) (hx : execWith tab i s = .next u)
include hv hi hx

theorem RunValues.avg_after {f : Orient} {h : Half} (hp : Performed (n + 1) (.avg f h)) :
    getAvg u f h = averageHalf (readPixel s.tile) s.mask f h := by
  rcases performed_succ_cases hi hp with rfl | ⟨hne, hp⟩
  · cases hx
    simp
  · have hsame : getAvg s f h = getAvg u f h := sameReg_of_not_isWriter (r := .avg f h) hx hne
    rw [← hsame, hv.avg f h hp]

/-- The averages `QBASE` reads stand since the first words of the run. -/
theorem RunValues.quantized_after {f : Orient} (hp : Performed (n + 1) (.qbase f)) :
    (∀ h, getBase u f h = tileBase (readPixel s.tile) s.mask f h) ∧
    u.diff.get f =
      chooseMode (averageHalf (readPixel s.tile) s.mask f .h0) (averageHalf (readPixel s.tile) s.mask f .h1) ∧
    u.hibase.get f =
      hibaseOf (averageHalf (readPixel s.tile) s.mask f .h0) (averageHalf (readPixel s.tile) s.mask f .h1) := by
  rcases performed_succ_cases hi hp with rfl | ⟨hne, hp⟩
  · have havg (h : Half) := hv.avg f h (avg_before_qbase hi h)
    cases hx
    simp only [← havg]
    refine ⟨fun h => ?_, by simp, by simp⟩
    cases h <;> simp [tileBase, ← havg]
  · have hbase (h : Half) : getBase s f h = getBase u f h := sameReg_of_not_isWriter (r := .base f h) hx hne
    have hdiff : s.diff.get f = u.diff.get f := sameReg_of_not_isWriter (r := .diff f) hx hne
    have hhibase : s.hibase.get f = u.hibase.get f := sameReg_of_not_isWriter (r := .hibase f) hx hne
    rw [← hdiff, ← hhibase]
    exact ⟨fun h => hbase h ▸ hv.base f hp h, hv.diff f hp, hv.hibase f hp⟩

/-- The word before a `TBEST` is the `MSEARCH` of the same operands, over a base color that stands. -/
theorem RunValues.cand_after {f : Orient} {h : Half} {t : BitVec 3}
    (hnext : romProgram[n + 1]? = some (.tbest f h t)) :
    u.cand.score.toNat = tileScore tab (readPixel s.tile) s.mask f h t ∧
    u.cand.low = tileLow tab (readPixel s.tile) s.mask f h t := by
  obtain rfl : i = .msearch f h t := Option.some.inj (hi.symm.trans (msearch_before_tbest hnext))
  have hbase := hv.base f (qbase_before_msearch hi) h
  cases hx
  rw [tileScore, tileLow, ← hbase]
  exact ⟨toNat_searchScore .., rfl⟩

/-- The comparison of table `k` replaces `BEST[f][h]` only on `k = 0`, the first table, or a strictly smaller score. -/
theorem RunValues.best_after_tbest {f : Orient} {h : Half} {k t : BitVec 3} (hik : i = .tbest f h k)
    (hp : Performed (n + 1) (.tbest f h t)) :
    BestAmong tab (readPixel s.tile) s.mask (n + 1) f h (getBest u f h) t := by
  subst hik
  obtain ⟨hscore, hlow⟩ := hv.cand f h k hi
  have hbefore := tbest_before_tbest hi
  have ht : Performed n (.tbest f h t) ∨ t = k := by simpa using (performed_succ hi (.tbest f h t)).mp hp
  change exec (.tbest f h k) s = .next u at hx
  rw [exec_tbest] at hx
  cases hx
  rw [BestAmong, performed_succ hi]
  split
  · next hless =>
    rw [getBest_setBest_same]
    refine ⟨.inr rfl, hscore, hlow, ?_⟩
    rcases ht with ht | rfl
    · obtain ⟨-, -, -, hle, -⟩ := hv.best f h t ht
      have hk : k ≠ 0 := fun h0 => absurd ((hbefore t).mp ht) (by simp [h0])
      have hlt : s.cand.score.toNat < (getBest s f h).score.toNat := hless.resolve_left hk
      dsimp only
      omega
    · exact ⟨hscore.le, fun _ => le_rfl⟩
  · next hnot =>
    obtain ⟨hk, hge⟩ := not_or.mp hnot
    have hpos : 0 < k.toNat := Nat.pos_of_ne_zero fun h0 => hk (BitVec.eq_of_toNat_eq h0)
    obtain ⟨hperf, hs, hl, -⟩ := hv.best f h 0 ((hbefore 0).mpr hpos)
    refine ⟨.inl hperf, hs, hl, ?_⟩
    rcases ht with ht | rfl
    · obtain ⟨-, -, -, hle, hfirst⟩ := hv.best f h t ht
      exact ⟨hle, hfirst⟩
    · rw [BitVec.lt_def, not_lt, hscore] at hge
      exact ⟨hge, fun _ => ((hbefore _).mp hperf).le⟩

theorem RunValues.best_after {f : Orient} {h : Half} {t : BitVec 3} (hp : Performed (n + 1) (.tbest f h t)) :
    BestAmong tab (readPixel s.tile) s.mask (n + 1) f h (getBest u f h) t := by
  by_cases hw : IsWriter (.best f h) i
  · obtain ⟨k, hik⟩ := hw
    exact hv.best_after_tbest hi hx hik hp
  · have hsame : getBest s f h = getBest u f h := sameReg_of_not_isWriter (r := .best f h) hx hw
    rcases performed_succ_cases hi hp with rfl | ⟨-, hp⟩
    · exact absurd ⟨t, rfl⟩ hw
    · obtain ⟨hperf, hrest⟩ := hv.best f h t hp
      rw [← hsame, BestAmong, performed_succ hi]
      exact ⟨.inl hperf, hrest⟩

/-- All sixteen comparisons of each orientation stand before `SELORI`. -/
theorem RunValues.selected_after (hp : Performed (n + 1) .selori) :
    (∀ f, (u.total.get f).toNat = tileTotal tab (readPixel s.tile) s.mask f) ∧
    u.sel = tileFlip tab (readPixel s.tile) s.mask := by
  rcases performed_succ_cases hi hp with rfl | ⟨hne, hp⟩
  · have htotal := hv.totalOf_eq (tbest_before_selori hi)
    refine ⟨fun f => by rw [total_exec_selori hx, htotal], ?_⟩
    cases hx
    simp only [setSel_sel, betterOrient, tileFlip, BitVec.lt_def, htotal]
  · have htotal (f : Orient) : s.total.get f = u.total.get f := sameReg_of_not_isWriter (r := .total f) hx hne
    have hsel : s.sel = u.sel := sameReg_of_not_isWriter (r := .sel) hx hne
    exact ⟨fun f => htotal f ▸ hv.total hp f, hsel ▸ hv.sel hp⟩

/-- Everything `PACK` reads stands before it. -/
theorem RunValues.packed_after (hp : Performed (n + 1) .pack) :
    u.high = tileHigh tab (readPixel s.tile) s.mask (tileFlip tab (readPixel s.tile) s.mask) ∧
    u.low = tileLowWord tab (readPixel s.tile) s.mask (tileFlip tab (readPixel s.tile) s.mask) := by
  rcases performed_succ_cases hi hp with rfl | ⟨hne, hp⟩
  · obtain ⟨hselori, hqbase, htbest⟩ := work_before_pack hi
    have hhibase := hv.hibase s.sel (hqbase s.sel)
    obtain ⟨htable0, -, hlow0⟩ := hv.best_final (htbest s.sel .h0)
    obtain ⟨htable1, -, hlow1⟩ := hv.best_final (htbest s.sel .h1)
    cases hx
    rw [← hv.sel hselori, tileHigh, tileLowWord, ← htable0, ← htable1, ← hhibase]
    rw [← htable0] at hlow0
    rw [← htable1] at hlow1
    rw [← hlow0, ← hlow1]
    exact ⟨rfl, rfl⟩
  · have hhigh : s.high = u.high := sameReg_of_not_isWriter (r := .high) hx hne
    have hlow : s.low = u.low := sameReg_of_not_isWriter (r := .low) hx hne
    exact ⟨hhigh ▸ hv.high hp, hlow ▸ hv.low hp⟩

theorem RunValues.out_after (hp : Performed (n + 1) .ser) :
    outBytes u = encodePixels tab (readPixel s.tile) s.mask := by
  rcases performed_succ_cases hi hp with rfl | ⟨hne, hp⟩
  · obtain ⟨-, hpack⟩ := pack_before_ser hi
    rw [outBytes_of_exec_ser hx, hv.high hpack, hv.low hpack, encodePixels]
  · rw [outBytes, execWith_keeps_out hne hx]
    exact hv.out hp

/-- One word of the run, clause by clause. -/
theorem RunValues.after_exec : RunValues tab (n + 1) u := by
  obtain ⟨htile, hmask⟩ := execWith_keeps_inputs hx
  constructor <;> rw [htile, hmask]
  case avg => exact fun f h hp => hv.avg_after hi hx hp
  case base => exact fun f hp => (hv.quantized_after hi hx hp).1
  case diff => exact fun f hp => (hv.quantized_after hi hx hp).2.1
  case hibase => exact fun f hp => (hv.quantized_after hi hx hp).2.2
  case cand => exact fun f h t hnext => hv.cand_after hi hx hnext
  case best => exact fun f h t hp => hv.best_after hi hx hp
  case total => exact fun hp => (hv.selected_after hi hx hp).1
  case sel => exact fun hp => (hv.selected_after hi hx hp).2
  case high => exact fun hp => (hv.packed_after hi hx hp).1
  case low => exact fun hp => (hv.packed_after hi hx hp).2
  case out => exact hv.out_after hi hx

end

/-- Nothing has been performed before the first word of the run, which is no `TBEST`. -/
theorem runValues_zero (tab : Config.ModTab) (s : State) : RunValues tab 0 s := by
  have hnone {p : Prop} (i : Instr) (hp : Performed 0 i) : p := absurd hp (not_performed_zero i)
  constructor
  case cand => exact fun f h t hfirst => by cases hfirst
  all_goals intros; exact hnone _ ‹_›

/-- `PHASE`, `SEQ` and the host's side do not matter to the values of a run. -/
theorem RunValues.set_sequencer (hv : RunValues tab n s) (p : Phase) (q : BitVec 7) (x : HostSide) :
    RunValues tab n (setHost (setSeq (setPhase s p) q) x) := { hv with }

end

end Sys2Proof.Safety
end

section
/-! SUPPORT. The steps of the configured block, said once for each phase (R90, R97, R98, R103), and the host's side of a
running block, which nothing of its step reads (R97, R118). -/

namespace Sys2Proof.Machine

open Sys2Proof.Safety

section
variable {dispatch : Dispatcher} {rom : List Byte} {s : State}

theorem stepWith_of_reset (hr : (currentDrive s).reset = true) :
    stepWith dispatch rom s = .next (nextDrive (hostReset s)) := by
  simp [stepWith, hr]

variable (hr : (currentDrive s).reset = false)
include hr

theorem stepWith_idle_of_offer {o : Offer} (hp : s.phase = .idle) (ho : (currentDrive s).offer = some o) :
    stepWith dispatch rom s = .next (nextDrive (hostStart o s)) := by
  simp [stepWith, hr, hp, ho]

theorem stepWith_idle_of_no_offer (hp : s.phase = .idle) (ho : (currentDrive s).offer = none) :
    stepWith dispatch rom s = .next (nextDrive s) := by
  simp [stepWith, hr, hp, ho]

theorem stepWith_run (hp : s.phase = .run) : stepWith dispatch rom s = sequencerStep dispatch rom s := by
  simp [stepWith, hr, hp]

theorem stepWith_done_of_ready (hp : s.phase = .done) (ho : (currentDrive s).outReady = true) :
    stepWith dispatch rom s = .next (nextDrive (hostTake s)) := by
  simp [stepWith, hr, hp, ho]

theorem stepWith_done_of_not_ready (hp : s.phase = .done) (ho : (currentDrive s).outReady = false) :
    stepWith dispatch rom s = .next (nextDrive s) := by
  simp [stepWith, hr, hp, ho]

end

theorem sequencerStep_of_decode {dispatch : Dispatcher} {rom : List Byte} {s : State} {w : Byte} {i : Instr}
    (hw : rom[s.seq.toNat]? = some w) (hi : decode [w] = .instr i) :
    sequencerStep dispatch rom s = finishStep (dispatch i s) := by
  simp only [sequencerStep, hw, hi]

/-- The host's side passes through a micro-operation: none reads or writes it. -/
theorem exec_setHost {i : Instr} {s u : State} (x : HostSide) (hx : exec i s = .next u) :
    exec i (setHost s x) = .next (setHost u x) := by
  rcases exec_next_cases hx with ⟨f, h, rfl, rfl⟩ | ⟨f, rfl, rfl⟩ | ⟨f, h, n, rfl, rfl⟩ | ⟨f, h, n, rfl, hn, rfl⟩ |
    ⟨f, h, n, rfl, hn, rfl⟩ | ⟨rfl, rfl⟩ | ⟨rfl, rfl⟩ | ⟨rfl, rfl⟩
  case inr.inr.inr.inl => rw [exec_tbest]; exact congrArg _ (if_pos hn)
  case inr.inr.inr.inr.inl => rw [exec_tbest]; exact congrArg _ (if_neg hn)
  all_goals rfl

/-- The host's side passes through the end of a step. -/
theorem advance_setHost (s : State) (x : HostSide) : advance (setHost s x) = setHost (advance s) x := by
  unfold advance
  rw [setHost_seq]
  split <;> rfl

theorem advance_host (s : State) : (advance s).host = s.host := by
  unfold advance
  split <;> rfl

/-- A running block does not see what the host drives (R97, R118). -/
theorem sequencerStep_ignores_drive {rom : List Byte} (s : State) (d d' : Drive) (ds : List Drive)
    (rs : List (List Byte)) :
    sequencerStep exec rom (setHost s ⟨d :: ds, rs⟩) = sequencerStep exec rom (setHost s ⟨d' :: ds, rs⟩) := by
  unfold sequencerStep
  rw [setHost_seq, setHost_seq]
  split
  · rfl
  · split
    · next i hi =>
      obtain ⟨u, hx⟩ := exec_completes (encode_of_decodeControl hi).1 s
      simp only [exec_setHost _ hx, finishStep, advance_setHost]
      rfl
    · rfl

end Sys2Proof.Machine
end

section
/-! SUPPORT. Runs of steps, and the run invariant kept by every step under any modifier table (R94, R116). -/

namespace Sys2Proof.Safety

open Sys2Proof.Machine

section
variable {next : State → Host.Outcome State Fault Refusal} {k : Nat} {s t : State}

theorem stepsOf_succ_of_head (hs : next s = .next t) : stepsOf next (k + 1) s = stepsOf next k t := by
  simp only [stepsOf, hs]

/-- One more step after `k` steps. -/
theorem stepsOf_succ_of_init (hs : stepsOf next k s = .next t) : stepsOf next (k + 1) s = next t := by
  induction k generalizing s with
  | zero =>
    cases hs
    cases hn : next t <;> simp only [stepsOf, hn]
  | succ k ih =>
    cases hn : next s with
    | next u => rw [stepsOf_succ_of_head hn] at hs ⊢; exact ih hs
    | fault r => simp only [stepsOf, hn, reduceCtorEq] at hs
    | refused r => simp only [stepsOf, hn, reduceCtorEq] at hs

/-- What every step keeps, every run of steps keeps. -/
theorem stepsOf_keeps {P : State → Prop} (hkeep : ∀ s t, P s → next s = .next t → P t) (hs : P s)
    (hst : stepsOf next k s = .next t) : P t := by
  induction k generalizing s with
  | zero => cases hst; exact hs
  | succ k ih =>
    cases hn : next s with
    | next u => exact ih (hkeep s u hs hn) (stepsOf_succ_of_head hn ▸ hst)
    | fault r => simp only [stepsOf, hn, reduceCtorEq] at hst
    | refused r => simp only [stepsOf, hn, reduceCtorEq] at hst

end

/-- A block that neither runs nor is Done holds no values of a run. -/
theorem runHolds_of_idle (tab : Config.ModTab) {s : State} (hp : s.phase = .idle) : RunHolds tab s := by
  simp [RunHolds, hp]

theorem RunHolds.nextDrive {tab : Config.ModTab} {s : State} (hs : RunHolds tab s) : RunHolds tab (nextDrive s) :=
  ⟨fun hp => (hs.1 hp).set_sequencer s.phase s.seq _, fun hp => (hs.2 hp).set_sequencer s.phase s.seq _⟩

/-- The end of a step counts the word just performed: it is the next of the run, or the last (R90). -/
theorem runHolds_advance {tab : Config.ModTab} {u : State} (hlt : u.seq.toNat < 73) (hp : u.phase = .run)
    (hv : RunValues tab (u.seq.toNat + 1) u) : RunHolds tab (advance u) := by
  by_cases h : u.seq.toNat < 72
  · have hseq : (advance u).seq.toNat = u.seq.toNat + 1 := by rw [toNat_seq_advance, if_pos h]
    have hphase : (advance u).phase = .run := by rw [advance_phase, if_pos h, hp]
    refine ⟨fun _ => ?_, fun hd => ?_⟩
    · rw [hseq, advance_of_lt h]
      exact hv.set_sequencer u.phase (u.seq + 1) u.host
    · rw [hphase] at hd; cases hd
  · have hlast : u.seq.toNat + 1 = 73 := by omega
    rw [hlast] at hv
    rw [advance_of_not_lt h]
    exact ⟨nofun, fun _ => hv.set_sequencer .done 0 u.host⟩

/-- The run invariant under any modifier table, by the cases of a step. -/
theorem stepFor_keeps_runHolds {tab : Config.ModTab} {s t : State} (hs : RunHolds tab s)
    (hst : stepFor tab s = .next t) : RunHolds tab t := by
  rcases stepWith_next_cases hst with ⟨-, rfl⟩ | ⟨-, ⟨-, o, -, rfl⟩ | ⟨-, -, rfl⟩ | ⟨-, -, rfl⟩ | ⟨-, -, rfl⟩ |
    ⟨hp, w, i, u, hw, hi, hx, rfl⟩⟩
  · exact runHolds_of_idle tab rfl
  · exact ⟨fun _ => runValues_zero tab _, nofun⟩
  · exact hs.nextDrive
  · exact runHolds_of_idle tab rfl
  · exact hs.nextDrive
  · obtain ⟨hup, huq, -⟩ := execWith_keeps_sequencer hx
    have hlt : s.seq.toNat < 73 := (List.getElem?_eq_some_iff.mp hw).1
    have hv := (hs.1 hp).after_exec (romProgram_of_controlRom hw hi) hx
    rw [← huq] at hlt hv
    exact (runHolds_advance hlt (hup.trans hp) hv).nextDrive

/-- `SER`, the last word, makes `OUT` of a Done block the encoding (R92, R116). -/
theorem RunHolds.outBytes_of_done {tab : Config.ModTab} {s : State} (hs : RunHolds tab s) (hp : s.phase = .done) :
    outBytes s = encodePixels tab (readPixel s.tile) s.mask :=
  (hs.2 hp).out (by unfold Performed; decide)

end Sys2Proof.Safety
end

section
/-! SUPPORT. A run of the configured block (R90, R94): each of its words takes one step, and 73 steps end it. -/

namespace Sys2Proof.Safety

open Sys2Proof.Machine

theorem NoReset.drop {m k : Nat} {s : State} (hn : NoReset m s) (hk : k < m) :
    ((s.host.script.drop k).headD noDrive).reset = false := by
  cases hd : s.host.script.drop k with
  | nil => rfl
  | cons d ds =>
    have hget : s.host.script[k]? = some d := by rw [← List.head?_drop, hd]; rfl
    exact hn d (List.mem_of_getElem? ((List.getElem?_take_of_lt hk).trans hget))

theorem NoReset.currentDrive_reset {m : Nat} {s : State} (hn : NoReset (m + 1) s) : (currentDrive s).reset = false :=
  hn.drop (k := 0) (Nat.succ_pos m)

theorem NoReset.of_tail {m : Nat} {s t : State} (hn : NoReset (m + 1) s)
    (ht : t.host.script = s.host.script.tail) : NoReset m t := by
  intro d hd
  rw [ht, ← List.drop_one, List.take_drop, Nat.add_comm] at hd
  exact hn d (List.mem_of_mem_drop hd)

/-- After `k` steps of a run begun in `s`, at `SEQ` 0: the block runs word `k` on the same tile and mask. -/
structure Underway (s : State) (k : Nat) (t : State) : Prop where
  phase : t.phase = .run
  seq : t.seq.toNat = k
  script : t.host.script = s.host.script.drop k
  tile : t.tile = s.tile
  mask : t.mask = s.mask

section
variable {tab : Config.ModTab} {s t : State} {k : Nat}

/-- The step of a run performs a micro-operation, which leaves the run where it is, and then ends (R90). -/
theorem Underway.stepFor_eq (hn : NoReset 73 s) (hk : k < 73) (ht : Underway s k t) :
    ∃ u, Underway s k u ∧ stepFor tab t = .next (nextDrive (advance u)) := by
  obtain ⟨hp, hq, hscript, htile, hmask⟩ := ht
  have hr : (currentDrive t).reset = false := by
    rw [currentDrive, hscript]
    exact hn.drop hk
  obtain ⟨w, i, hw, hi, hwf⟩ := controlRom_decodes (hq ▸ hk : t.seq.toNat < 73)
  obtain ⟨u, hx⟩ := execWith_completes (tab := tab) hwf t
  obtain ⟨hup, huq, huh⟩ := execWith_keeps_sequencer hx
  obtain ⟨hut, hum⟩ := execWith_keeps_inputs hx
  refine ⟨u, ⟨hup.trans hp, huq ▸ hq, huh ▸ hscript, hut.trans htile, hum.trans hmask⟩, ?_⟩
  rw [stepFor, stepWith_run hr hp, sequencerStep_of_decode hw hi, hx]
  rfl

/-- The end of a step before the last word. -/
theorem Underway.advance (hk : k < 72) (hu : Underway s k t) : Underway s (k + 1) (nextDrive (advance t)) := by
  obtain ⟨hp, hq, hscript, htile, hmask⟩ := hu
  have hlt : t.seq.toNat < 72 := hq ▸ hk
  have hseq := toNat_seq_advance t
  rw [if_pos hlt, hq] at hseq
  have hhost : t.host.script.tail = s.host.script.drop (k + 1) := by rw [hscript, List.tail_drop]
  rw [advance_of_lt hlt] at hseq ⊢
  exact ⟨hp, hseq, hhost, htile, hmask⟩

/-- A run that is not reset performs a word a step, under any modifier table (R94, R122). -/
theorem stepsOf_underway (hp : s.phase = .run) (hq : s.seq = 0) (hn : NoReset 73 s) (hk : k < 73) :
    ∃ t, stepsOf (stepFor tab) k s = .next t ∧ Underway s k t := by
  induction k with
  | zero => exact ⟨s, rfl, hp, by rw [hq]; rfl, rfl, rfl, rfl⟩
  | succ k ih =>
    obtain ⟨t, hsteps, ht⟩ := ih (Nat.lt_of_succ_lt hk)
    obtain ⟨u, hu, hstep⟩ := ht.stepFor_eq (tab := tab) hn (Nat.lt_of_succ_lt hk)
    exact ⟨_, (stepsOf_succ_of_init hsteps).trans hstep, hu.advance (Nat.lt_of_succ_lt_succ hk)⟩

/-- The last word, `SER`, ends the run, on the tile and mask it began with (R94). -/
theorem stepsOf_run_ends (hp : s.phase = .run) (hq : s.seq = 0) (hn : NoReset 73 s) :
    ∃ t, stepsOf (stepFor tab) 73 s = .next t ∧ t.phase = .done ∧ t.seq = 0 ∧ t.tile = s.tile ∧ t.mask = s.mask := by
  obtain ⟨t, hsteps, ht⟩ := stepsOf_underway (tab := tab) hp hq hn (k := 72) (by decide)
  obtain ⟨u, hu, hstep⟩ := ht.stepFor_eq (tab := tab) hn (by decide)
  have hlast : ¬ u.seq.toNat < 72 := by rw [hu.seq]; decide
  rw [advance_of_not_lt hlast] at hstep
  exact ⟨_, (stepsOf_succ_of_init hsteps).trans hstep, rfl, rfl, hu.tile, hu.mask⟩

/-- From an accepted offer to the end of its run (R95, R97). -/
theorem stepsOf_encode {o : Offer} (hp : s.phase = .idle) (ho : (currentDrive s).offer = some o) (hn : NoReset 74 s) :
    ∃ t, stepsOf (stepFor tab) 74 s = .next t ∧ t.phase = .done ∧
      outBytes t = encodePixels tab (tilePixel o.tile) o.mask := by
  have hstart : stepFor tab s = .next (nextDrive (hostStart o s)) :=
    stepWith_idle_of_offer hn.currentDrive_reset hp ho
  have hquiet : NoReset 73 (nextDrive (hostStart o s)) := hn.of_tail rfl
  obtain ⟨t, hsteps, hdone, -, htile, hmask⟩ := stepsOf_run_ends (tab := tab) rfl rfl hquiet
  have hsteps' := (stepsOf_succ_of_head (k := 73) hstart).trans hsteps
  have hholds : RunHolds tab t :=
    stepsOf_keeps (fun _ _ => stepFor_keeps_runHolds) (runHolds_of_idle tab hp) hsteps'
  refine ⟨t, hsteps', hdone, ?_⟩
  rw [hholds.outBytes_of_done hdone, htile, hmask]
  exact congrArg (encodePixels tab · o.mask) (readPixel_writeBytes s.tile o.tile)

end

end Sys2Proof.Safety
end

section
/-! The statements about the block sequencer (46_block_sequencer.md). -/

namespace Sys2Proof.Proofs

open Sys2Proof.Machine Sys2Proof.Safety

/-- Settles O56: each word of the run sets the registers it writes to the values of the closed definition and keeps the
others; reset leaves the block idle, where the invariant is empty. -/
theorem doneHoldsEncoding : Obligations.DoneHoldsEncoding := by
  have hkeep (s t : State) (hs : RunHolds modTab s) (hst : step s = .next t) : RunHolds modTab t :=
    stepFor_keeps_runHolds hs (stepFor_modTab ▸ hst)
  refine ⟨hkeep, fun s hs hp => hs.outBytes_of_done hp, ?_⟩
  rintro s ⟨script, k, hsteps⟩
  have hs : RunHolds modTab s := stepsOf_keeps hkeep (runHolds_of_idle modTab rfl) hsteps
  exact hs.outBytes_of_done

/-- Settles O7: a micro-operation completes at every word of the ROM, and the other phases have a step for whatever the
host drives. -/
theorem stepNeverStops : Obligations.StepNeverStops := by
  rintro s ⟨hlt, -⟩
  cases hr : (currentDrive s).reset with
  | true => exact ⟨_, stepWith_of_reset hr⟩
  | false =>
    cases hp : s.phase with
    | idle =>
      cases ho : (currentDrive s).offer with
      | none => exact ⟨_, stepWith_idle_of_no_offer hr hp ho⟩
      | some o => exact ⟨_, stepWith_idle_of_offer hr hp ho⟩
    | run =>
      obtain ⟨t, hstep, -⟩ := stepAdvancesSeq s hp hr (Nat.le_of_lt_succ hlt)
      exact ⟨t, hstep⟩
    | done =>
      cases ho : (currentDrive s).outReady with
      | true => exact ⟨_, stepWith_done_of_ready hr hp ho⟩
      | false => exact ⟨_, stepWith_done_of_not_ready hr hp ho⟩

/-- Settles O9: the run is under way after each of the first 72 steps, and the next one performs the last word. -/
theorem runTakesSeventyThreeSteps : Obligations.RunTakesSeventyThreeSteps := by
  intro s hp hq hn
  simp only [steps, ← stepFor_modTab]
  refine ⟨fun k hk => ?_, ?_⟩
  · obtain ⟨t, hsteps, ht⟩ := stepsOf_underway hp hq hn hk
    exact ⟨t, hsteps, ht.phase, ht.seq⟩
  · obtain ⟨t, hsteps, hdone, hzero, -⟩ := stepsOf_run_ends hp hq hn
    exact ⟨t, hsteps, hdone, hzero⟩

/-- Settles O11: the sequencer reads nothing of the host's side, and a reset or a Done block reads no offer. -/
theorem busyIgnoresOffers : Obligations.BusyIgnoresOffers := by
  rintro s ⟨reset, offer, ready⟩ ds o hne
  change step (setHost s _) = step (setHost s _)
  cases reset with
  | true => rfl
  | false =>
    cases hp : s.phase with
    | idle => exact absurd hp hne
    | run =>
      refine Eq.trans (step_run rfl hp) (Eq.trans ?_ (Eq.symm (step_run rfl hp)))
      exact sequencerStep_ignores_drive s ..
    | done =>
      cases ready with
      | true => exact Eq.trans (stepWith_done_of_ready rfl hp rfl) (Eq.symm (stepWith_done_of_ready rfl hp rfl))
      | false =>
        exact Eq.trans (stepWith_done_of_not_ready rfl hp rfl) (Eq.symm (stepWith_done_of_not_ready rfl hp rfl))

/-- Settles O30, by the cases of a step. -/
theorem hostReceivesOnlyByTake : Obligations.HostReceivesOnlyByTake := by
  intro s t hst
  rcases step_next_cases hst with ⟨hr, rfl⟩ | ⟨hr, ⟨hp, o, ho, rfl⟩ | ⟨hp, ho, rfl⟩ | ⟨hp, ho, rfl⟩ | ⟨hp, ho, rfl⟩ |
    ⟨hp, w, i, u, -, -, hx, rfl⟩⟩
  · simp [hr, hostReset]
  · simp [hp, hostStart]
  · simp [hp]
  · simp [hr, hp, ho, hostTake]
  · simp [ho]
  · obtain ⟨-, -, huh⟩ := exec_keeps_sequencer hx
    simp [hp, advance_host, huh]

/-- Settles O55: the run invariant holds in the idle state, where it is empty, and so in the Done state 74 steps later;
the part about the machine is that of the default table. -/
theorem runComputesEncode : Obligations.RunComputesEncode := by
  refine ⟨fun s o hp ho hn => ?_, fun tab s o => stepsOf_encode⟩
  rw [steps, ← stepFor_modTab]
  exact stepsOf_encode hp ho hn

/-- Settles O5: the ROM's length and encoding, and the registers written so far, along the order of work. -/
theorem romFollowsOrderOfWork : Obligations.RomFollowsOrderOfWork :=
  ⟨controlRom_length, flatMap_encode_romProgram, by decide +kernel⟩

/-- Settles O6: the step is the end of step applied to the outcome of the micro-operation. -/
theorem stepRunsDecoded : Obligations.StepRunsDecoded := by
  intro s w i hr hp hw hi _
  have hstep : step s = finishStep (exec i s) := (step_run hr hp).trans (sequencerStep_of_decode hw hi)
  exact ⟨fun t hx => by rw [hstep, hx]; rfl, fun r hx => by rw [hstep, hx]; rfl, fun r hx => by rw [hstep, hx]; rfl⟩

/-- Settles O10: the 48 addresses of `TILE` are those the offer's bytes are written at. -/
theorem startLatchesTile : Obligations.StartLatchesTile := by
  intro s o hp hr ho
  have hlen : o.tile.toList.length = 48 := by simp
  refine ⟨_, stepWith_idle_of_offer hr hp ho, rfl, rfl, rfl, fun a ha => ?_, fun a ha => ?_, rfl⟩
  · exact (read_writeBytes s.tile 0 a o.tile.toList).trans (by simp [ha])
  · exact (read_writeBytes s.tile 0 a o.tile.toList).trans (if_neg (by omega))

/-- Settles O12: the step is `TAKE`, which hands over the bytes of `OUT` in order. -/
theorem takeDeliversBlock : Obligations.TakeDeliversBlock :=
  fun _ hp hr ho => ⟨stepWith_done_of_ready hr hp ho, rfl⟩

/-- Settles O13, by the two phases in which a block waits. -/
theorem waitingChangesNothing : Obligations.WaitingChangesNothing := by
  rintro s hr (⟨hp, ho⟩ | ⟨hp, ho⟩)
  · exact stepWith_idle_of_no_offer hr hp ho
  · exact stepWith_done_of_not_ready hr hp ho

end Sys2Proof.Proofs
end

section
/-! The statements about exceptions (60_exceptions.md). -/

namespace Sys2Proof.Proofs

open Sys2Proof.Machine

/-- Settles O14: the step is `RESET` whatever the phase and the other inputs, and `RESET` and the host's next entry
touch the host's side of the reset state only. -/
theorem resetWins : Obligations.ResetWins :=
  fun _ hr => ⟨_, stepWith_of_reset hr, rfl, rfl, rfl, rfl⟩

end Sys2Proof.Proofs
end

section
/-! SUPPORT. The evaluations of `ERR` of a search, counted (R65, R69, R121): the counted scan, loop and micro-operation
compute what the uncounted ones do, and each makes a fixed number of evaluations for a valid pixel. -/

namespace Sys2Proof.Safety

open Sys2Proof.Machine

/-- The scan of R65 evaluates `ERR` once for each of the four entries, whatever it finds. -/
theorem countedPixBest_eq (row : BitVec 2 → Int) (b p : Color) : countedPixBest row b p = ⟨pixBest row b p, 4⟩ := rfl

theorem foldl_countedPixel (row : BitVec 2 → Int) (px : Pixel → Color) (base : Color) (ps : List Pixel)
    (acc : Counted (Nat × Word32)) :
    ps.foldl (countedPixel row px base) acc =
      ⟨(acc.val.1 + (ps.map fun p => (pixBest row base (px p)).2).sum,
        ps.foldl (fun low p => low ||| indexBits p (pixBest row base (px p)).1) acc.val.2),
       acc.errs + 4 * ps.length⟩ := by
  induction ps generalizing acc with
  | nil => rfl
  | cons p ps ih =>
    rw [List.foldl_cons, ih, countedPixel, countedPixBest_eq]
    simp only [List.map_cons, List.sum_cons, List.foldl_cons, List.length_cons, Nat.add_assoc, Nat.mul_add,
      Nat.add_comm 4]

/-- The evaluations of `ERR` a micro-operation makes under a mask: four for each valid pixel of a searched half. -/
def errEvaluations (mask : BitVec 16) : Instr → Nat
  | .msearch f h _ => 4 * (validPixels mask f h).length
  | _ => 0

theorem countedExec_eq (i : Instr) (s : State) : countedExec i s = ⟨exec i s, errEvaluations s.mask i⟩ := by
  cases i with
  | msearch f h t =>
    rw [countedExec, foldl_countedPixel, Nat.zero_add, Nat.zero_add]
    rfl
  | _ => rfl

theorem exec_keeps_mask {i : Instr} {s u : State} (hx : exec i s = .next u) : u.mask = s.mask :=
  (execWith_keeps_inputs (execWith_modTab ▸ hx)).2

theorem countedAll_cons_of_next {i : Instr} {is : List Instr} {s u : State} (hx : exec i s = .next u) :
    countedAll (i :: is) s = ⟨(countedAll is u).val, errEvaluations s.mask i + (countedAll is u).errs⟩ := by
  simp only [countedAll, countedExec_eq, hx]

/-- Micro-operations one after another complete, counted or not, in the same state, and their counts add up: none changes
the mask. -/
theorem countedAll_completes {is : List Instr} (hwf : ∀ i ∈ is, i.WellFormed) (s : State) :
    ∃ t, execAll is s = .next t ∧ countedAll is s = ⟨.next t, (is.map (errEvaluations s.mask)).sum⟩ := by
  induction is generalizing s with
  | nil => exact ⟨s, rfl, rfl⟩
  | cons i is ih =>
    obtain ⟨u, hx⟩ := exec_completes (hwf i List.mem_cons_self) s
    obtain ⟨t, ht, hcount⟩ := ih (fun j hj => hwf j (List.mem_cons_of_mem i hj)) u
    refine ⟨t, (execAll_cons_of_next hx).trans ht, ?_⟩
    rw [countedAll_cons_of_next hx, hcount, exec_keeps_mask hx, List.map_cons, List.sum_cons]

/-- The eight searches of a half. -/
theorem sum_errEvaluations_searchProgram (mask : BitVec 16) (f : Orient) (h : Half) :
    ((searchProgram f h).map (errEvaluations mask)).sum = 32 * (validPixels mask f h).length := by
  simp only [searchProgram, allTables, List.flatMap_cons, List.flatMap_nil, List.cons_append, List.nil_append,
    List.map_cons, List.map_nil, List.sum_cons, List.sum_nil, errEvaluations]
  omega

theorem length_validPixels (mask : BitVec 16) (f : Orient) (h : Half) :
    (validPixels mask f h).length =
      ((List.range 16).filter fun i => mask.getLsbD i && (halfMask f h).getLsbD i).length := by
  rw [← map_pixelNumber_validPixels, List.length_map]

/-- Each valid pixel lies in one half of each orientation (R45). -/
theorem length_validPixels_halves (mask : BitVec 16) (f : Orient) :
    (validPixels mask f .h0).length + (validPixels mask f .h1).length = validCount mask := by
  have hcompl : ∀ i ∈ List.range 16, (halfMask f .h1).getLsbD i = !(halfMask f .h0).getLsbD i := by
    cases f <;> decide
  simp only [length_validPixels, validCount, ← List.countP_eq_length_filter]
  rw [List.countP_eq_countP_filter_add (List.range 16) (fun i => mask.getLsbD i) fun i => (halfMask f .h0).getLsbD i,
    List.countP_filter, List.countP_filter]
  congr 1
  exact List.countP_congr fun i hi => by rw [hcompl i hi]

theorem sum_errEvaluations_romProgram (mask : BitVec 16) :
    (romProgram.map (errEvaluations mask)).sum = 64 * validCount mask := by
  have hf0 := length_validPixels_halves mask .f0
  have hf1 := length_validPixels_halves mask .f1
  simp only [romProgram, List.flatMap_cons, List.flatMap_nil, List.map_append, List.sum_append, List.map_cons,
    List.map_nil, List.sum_cons, List.sum_nil, sum_errEvaluations_searchProgram, errEvaluations, List.append_nil,
    List.cons_append, List.nil_append]
  omega

theorem validCount_le (mask : BitVec 16) : validCount mask ≤ 16 :=
  (List.length_filter_le ..).trans_eq List.length_range

end Sys2Proof.Safety
end

section
/-! The statements about the counts of a run and the frame of its operations (10_state.md, 70_reset_and_hazards.md). -/

namespace Sys2Proof.Proofs

open Sys2Proof.Machine Sys2Proof.Safety

/-- Settles O60: no micro-operation changes the mask, so the counts of the words of the ROM add up; each half is searched
eight times at four evaluations a valid pixel, and the halves of an orientation share out the valid pixels. -/
theorem errorEvaluationCount : Obligations.ErrorEvaluationCount := by
  refine ⟨fun i s => by rw [countedExec_eq], fun s => ?_⟩
  obtain ⟨t, ht, hcount⟩ := countedAll_completes (fun i hi => mem_romProgram_iff.mp hi) s
  exact ⟨t, ht, sum_errEvaluations_romProgram s.mask ▸ hcount, Nat.mul_le_mul_left 64 (validCount_le s.mask)⟩

/-- Settles O25: the frame of the listed registers, and that of the sequencer's and the host's. -/
theorem operationsLeaveOtherRegisters : Obligations.OperationsLeaveOtherRegisters :=
  fun _ _ _ hx => ⟨fun _ hr => exec_sameReg hx hr, exec_keeps_sequencer hx⟩

end Sys2Proof.Proofs
end
